-- ==== Sys2Proof/Word.lean ====
section
/-!
DEFINITION. The word types of the block: the 160-bit event word, the 512-bit configuration record, MAC addresses,
counters, and exact time. Spec: 00_scope.md R11, R13; 10_state.md R24, R40; 20_memory.md R61; 30_encoding.md R80, R88.
-/

namespace Sys2Proof

/-- A 160-bit event word or output word, bit 0 least significant (R80, R90, R91). -/
abbrev EventWord := BitVec 160

/-- A 512-bit configuration record, register `i` in bits [64i+63:64i] (R88). -/
abbrev CfgRecord := BitVec 512

/-- A station identifier: 48 bits, octet 0 in bits [47:40] (R24, R61, R83). -/
abbrev Mac := BitVec 48

/-- A byte length or a pause duration as a frame holds it: 16 bits, unsigned (R24, R84). -/
abbrev Half := BitVec 16

/-- A configuration register (R37). -/
abbrev Reg := BitVec 64

/-- A statistics counter: `CTR_WIDTH` = 64 bits, wrapping modulo 2^64 (R10, R40). -/
abbrev Counter := BitVec 64

/-- A time or a duration: an exact rational number of seconds (R13, R33). -/
abbrev Time := Rat

/-- A frame's payload: an opaque value the block carries and compares only for identity (R24, R60).
DESIGN CHOICE (log entry 9): the identity is a natural number, which every set of finite payloads injects into. -/
structure Payload where
  id : Nat
  deriving DecidableEq, Repr

end Sys2Proof
end

