-- ==== Sys2Proof/Config.lean ====
section
/-!
DEFINITION. What is fixed outside the state: the width of the words, and the free values. A free value is an opaque
constant with no body: no proof can see what it is, so a claim that mentions one holds whatever it is.
Spec: 60_exceptions.md R212; 00_scope.md R13; 93_implementation_defined.md U7.
-/

namespace Sys2Proof.Config

/-- The number of bits of an event word (R80, R91). -/
abbrev eventBits : Nat := 160

/-- FREE VALUE. Which of the events with one and the same least time stamp is taken first, for the `n`-th draw made
when the state lists no choice of its own (R212: "may be taken in any order among themselves"). Log entry 4. -/
opaque tieChoice : Nat → Nat

/-- FREE VALUE. The length of an interval of `bits` bit times at a line rate of zero. SETUP refuses a line rate of zero
("every duration divides by it", R182), so no run reaches it. Log entry 6. -/
opaque zeroRateDuration : Nat → Time

end Sys2Proof.Config
end

