-- ==== Sys2Proof/Syntax.lean ====
section
/-!
DEFINITION. The event forms of the block, one constructor per row of spec/opcode_table.json (30_encoding.md R81, R94),
with the operand fields an event word carries (R80, R82). What travels beside the word (time stamp, payload,
configuration record, the two draws of SETUP) is no part of it: see `Delivery` in Machine/State.lean.
-/

namespace Sys2Proof

/-- Frame kinds (R25): a tag decided when the frame is made, which never changes. -/
inductive Kind where
  | data
  | pause
  | filler
  deriving DecidableEq, Repr

/-- The operand fields a SUBMIT word gives its frame (R81, R82): S, SRC, DST, L, P. -/
structure SubmitOperands where
  srcValid   : Bool
  src        : Mac
  dst        : Mac
  len        : Nat
  pauseUnits : Nat
  deriving DecidableEq, Repr

/-- The operand fields an RX word gives its frame (R81, R82): E, S, SRC, DST, L, W, P.
L "is carried but not read by any rule" (R82). -/
structure RxOperands where
  err        : Bool
  srcValid   : Bool
  src        : Mac
  dst        : Mac
  len        : Nat
  wireLen    : Nat
  pauseUnits : Nat
  deriving DecidableEq, Repr

/-- The thirteen event forms (R94). -/
inductive Instr where
  | submitData (o : SubmitOperands)
  | submitPause (o : SubmitOperands)
  | submitFiller (o : SubmitOperands)
  | rxData (o : RxOperands)
  | rxPause (o : RxOperands)
  | rxFiller (o : RxOperands)
  | txEnd
  | ifgEnd
  | pauseEnd
  | setAdmin (disable : Bool)
  | shutdown
  | setup
  | reset
  deriving DecidableEq, Repr

/-- The SUBMIT instruction of kind `k`. -/
def submitInstr (k : Kind) (o : SubmitOperands) : Instr :=
  match k with
  | .data => .submitData o
  | .pause => .submitPause o
  | .filler => .submitFiller o

/-- The RX instruction of kind `k`. -/
def rxInstr (k : Kind) (o : RxOperands) : Instr :=
  match k with
  | .data => .rxData o
  | .pause => .rxPause o
  | .filler => .rxFiller o

end Sys2Proof
end

