-- ==== Sys2Proof/WellFormed.lean ====
section
/-!
DEFINITION. Which terms of `Instr` an event word can spell: every length and every pause duration fits its 16-bit field
(30_encoding.md R80, R84). Lengths above `maxFrameBytes` are encodable and well-formed (R84).
-/

namespace Sys2Proof

/-- A number that fits a 16-bit field of the event word (R84). -/
def fitsHalf (n : Nat) : Bool := decide (n < 65536)

/-- SUBMIT: L and P fit their fields. -/
def SubmitOperands.wellFormed (o : SubmitOperands) : Bool := fitsHalf o.len && fitsHalf o.pauseUnits

/-- RX: L, W and P fit their fields. -/
def RxOperands.wellFormed (o : RxOperands) : Bool := fitsHalf o.len && fitsHalf o.wireLen && fitsHalf o.pauseUnits

/-- The check on a whole instruction. -/
def Instr.wellFormed : Instr → Bool
  | .submitData o => o.wellFormed
  | .submitPause o => o.wellFormed
  | .submitFiller o => o.wellFormed
  | .rxData o => o.wellFormed
  | .rxPause o => o.wellFormed
  | .rxFiller o => o.wellFormed
  | .txEnd => true
  | .ifgEnd => true
  | .pauseEnd => true
  | .setAdmin _ => true
  | .shutdown => true
  | .setup => true
  | .reset => true

end Sys2Proof
end

