-- ==== Sys2Proof/Decode.lean ====
section
/-!
DEFINITION. The decoder of 30_encoding.md R87, total on every 160-bit word and refusing by name, and the encoder written
from the same field table (R80, R81). Bit 0 is the least significant.
-/

namespace Sys2Proof

/-- Why a word spells no event (R85). -/
inductive Invalid where
  /-- RSV = w[15:9] is not zero (R85 (b)). -/
  | reservedBits
  /-- EV is 0x0 or in 0xA to 0xF (R85 (a)). -/
  | noSuchEvent
  /-- EV is SUBMIT or RX and K = 11 (R85 (c)). -/
  | noSuchKind
  deriving DecidableEq, Repr

/-! ## The fields of R80 -/

/-- EV, bits [3:0]. -/
def fieldEv (w : EventWord) : BitVec 4 := w.extractLsb' 0 4
/-- A, bit [4]. -/
def fieldA (w : EventWord) : Bool := w.getLsbD 4
/-- K, bits [6:5]. -/
def fieldK (w : EventWord) : BitVec 2 := w.extractLsb' 5 2
/-- E, bit [7]. -/
def fieldE (w : EventWord) : Bool := w.getLsbD 7
/-- S, bit [8]. -/
def fieldS (w : EventWord) : Bool := w.getLsbD 8
/-- RSV, bits [15:9]. -/
def fieldRsv (w : EventWord) : BitVec 7 := w.extractLsb' 9 7
/-- L, bits [31:16]. -/
def fieldL (w : EventWord) : Half := w.extractLsb' 16 16
/-- W, bits [47:32]. -/
def fieldW (w : EventWord) : Half := w.extractLsb' 32 16
/-- P, bits [63:48]. -/
def fieldP (w : EventWord) : Half := w.extractLsb' 48 16
/-- DST, bits [111:64]. -/
def fieldDst (w : EventWord) : Mac := w.extractLsb' 64 48
/-- SRC, bits [159:112]. -/
def fieldSrc (w : EventWord) : Mac := w.extractLsb' 112 48

/-! ## The decoder (R87) -/

/-- The operand fields of a SUBMIT word; E and W are not read (R82, R86). -/
def submitOperandsOf (w : EventWord) : SubmitOperands :=
  { srcValid := fieldS w, src := fieldSrc w, dst := fieldDst w, len := (fieldL w).toNat, pauseUnits := (fieldP w).toNat }

/-- The operand fields of an RX word (R82). -/
def rxOperandsOf (w : EventWord) : RxOperands :=
  { err := fieldE w, srcValid := fieldS w, src := fieldSrc w, dst := fieldDst w, len := (fieldL w).toNat,
    wireLen := (fieldW w).toNat, pauseUnits := (fieldP w).toNat }

/-- A SUBMIT word by its kind field (R80: 00 DATA, 01 PAUSE, 10 FILLER, 11 invalid). -/
def decodeSubmit (w : EventWord) : Except Invalid Instr :=
  match (fieldK w).toNat with
  | 0 => .ok (.submitData (submitOperandsOf w))
  | 1 => .ok (.submitPause (submitOperandsOf w))
  | 2 => .ok (.submitFiller (submitOperandsOf w))
  | _ => .error .noSuchKind

/-- An RX word by its kind field. -/
def decodeRx (w : EventWord) : Except Invalid Instr :=
  match (fieldK w).toNat with
  | 0 => .ok (.rxData (rxOperandsOf w))
  | 1 => .ok (.rxPause (rxOperandsOf w))
  | 2 => .ok (.rxFiller (rxOperandsOf w))
  | _ => .error .noSuchKind

/-- The decoder, total on every 160-bit word (R87). -/
def decode (w : EventWord) : Except Invalid Instr :=
  if fieldRsv w ≠ 0 then .error .reservedBits
  else
    match (fieldEv w).toNat with
    | 1 => decodeSubmit w
    | 2 => decodeRx w
    | 3 => .ok .txEnd
    | 4 => .ok .ifgEnd
    | 5 => .ok .pauseEnd
    | 6 => .ok (.setAdmin (fieldA w))
    | 7 => .ok .shutdown
    | 8 => .ok .setup
    | 9 => .ok .reset
    | _ => .error .noSuchEvent

/-! ## The encoder -/

/-- A word laid out from its eleven fields, SRC highest and EV lowest (R80; R90 for output words). -/
def packWord (src dst : Mac) (p w l : Half) (rsv : BitVec 7) (s e : Bool) (k : BitVec 2) (a : Bool) (ev : BitVec 4) :
    EventWord :=
  src ++ dst ++ p ++ w ++ l ++ rsv ++ BitVec.ofBool s ++ BitVec.ofBool e ++ k ++ BitVec.ofBool a ++ ev

/-- The two bits of a frame kind (R80). -/
def Kind.code : Kind → BitVec 2
  | .data => 0
  | .pause => 1
  | .filler => 2

/-- The word of a SUBMIT of kind `k`; the fields it does not read are zero. -/
def encodeSubmit (k : Kind) (o : SubmitOperands) : EventWord :=
  packWord o.src o.dst (BitVec.ofNat 16 o.pauseUnits) 0 (BitVec.ofNat 16 o.len) 0 o.srcValid false k.code false 1

/-- The word of an RX of kind `k`. -/
def encodeRx (k : Kind) (o : RxOperands) : EventWord :=
  packWord o.src o.dst (BitVec.ofNat 16 o.pauseUnits) (BitVec.ofNat 16 o.wireLen) (BitVec.ofNat 16 o.len) 0
    o.srcValid o.err k.code false 2

/-- The word of an event that reads no operand field but A. -/
def encodeBare (a : Bool) (ev : BitVec 4) : EventWord := packWord 0 0 0 0 0 0 false false 0 a ev

/-- The word of an instruction, with zeros in the fields its event does not read. -/
def encode : Instr → EventWord
  | .submitData o => encodeSubmit .data o
  | .submitPause o => encodeSubmit .pause o
  | .submitFiller o => encodeSubmit .filler o
  | .rxData o => encodeRx .data o
  | .rxPause o => encodeRx .pause o
  | .rxFiller o => encodeRx .filler o
  | .txEnd => encodeBare false 3
  | .ifgEnd => encodeBare false 4
  | .pauseEnd => encodeBare false 5
  | .setAdmin d => encodeBare d 6
  | .shutdown => encodeBare false 7
  | .setup => encodeBare false 8
  | .reset => encodeBare false 9

/-! ## The words of the opcode table -/

/-- The event word whose low `nbits` bits are those of `w` and whose other bits are zero. -/
def tableWord (nbits w : Nat) : EventWord := BitVec.ofNat 160 (w % 2 ^ nbits)

/-- What the decoder reads from a word numbered as spec/opcode_table.json numbers it. -/
def decodeTableWord (nbits w : Nat) : Option Instr :=
  match decode (tableWord nbits w) with
  | .ok i => some i
  | .error _ => none

end Sys2Proof
end

