-- ==== Sys2Proof/Machine/State.lean ====
section
/-!
DEFINITION. The architectural state of the block as plain data (10_state.md R20 to R46), its value at power-on
(70_reset_and_hazards.md R240), and the two closed types of reasons a step could stop for.
Every piece of state the spec names is a field under the spec's own name. The fields `inbox`, `cur`, `ties` and
`tieDraws` are the MODEL's own: they hold what the environment offers and how ties among equal stamps fall.
-/

namespace Sys2Proof.Machine

/-! ## Enumerated registers -/

/-- The life-cycle register (R22). -/
inductive Phase where
  | uninit
  | run
  | halted
  | stopped
  deriving DecidableEq, Repr

/-- The protocol state (R23). -/
inductive TxState where
  | idle
  | transmitting
  | waitIfg
  | paused
  deriving DecidableEq, Repr

/-- The three protocol timers (R34). -/
inductive Timer where
  | txEnd
  | ifgEnd
  | pauseEnd
  deriving DecidableEq, Repr

/-- CFG_MODE.queueMode (R37, R9). -/
inductive QueueMode where
  | internal
  | external
  deriving DecidableEq, Repr

/-- CFG_MODE.overflowPolicy (R37, R9). -/
inductive OverflowPolicy where
  | fatal
  | reject
  deriving DecidableEq, Repr

/-! ## Frames, configuration registers, counters -/

/-- A frame value (R24). -/
structure Frame where
  kind       : Kind
  dst        : Mac
  src        : Mac
  srcValid   : Bool
  len        : Half
  wireLen    : Half
  pauseUnits : Half
  err        : Bool
  payload    : Payload
  deriving DecidableEq, Repr

/-- The eight configuration registers, index 0 to 7 (R37). Their fields are read by the accessors of
Machine/Operands.lean. -/
structure CfgRegs where
  cfgAddr       : Reg
  cfgMode       : Reg
  cfgLineRate   : Reg
  cfgMinFrame   : Reg
  cfgMaxFrame   : Reg
  cfgIfgBits    : Reg
  cfgPauseUnit  : Reg
  cfgQueueLimit : Reg
  deriving DecidableEq, Repr

/-- The statistics counters (R40), each 64 bits. -/
structure Counters where
  fromUpper      : Counter
  txFrames       : Counter
  txBytes        : Counter
  txPause        : Counter
  txPauseUnits   : Counter
  rxOkFrames     : Counter
  rxOkBytes      : Counter
  rxPause        : Counter
  rxPauseUnits   : Counter
  dropUpDisconn  : Counter
  dropUpDisabled : Counter
  dropRxDisconn  : Counter
  dropRxDisabled : Counter
  dropBiterr     : Counter
  dropQfull      : Counter
  deriving DecidableEq, Repr

/-- The names of the counters (R40), for `count` and `add` (R12). -/
inductive Ctr where
  | fromUpper
  | txFrames
  | txBytes
  | txPause
  | txPauseUnits
  | rxOkFrames
  | rxOkBytes
  | rxPause
  | rxPauseUnits
  | dropUpDisconn
  | dropUpDisabled
  | dropRxDisconn
  | dropRxDisabled
  | dropBiterr
  | dropQfull
  deriving DecidableEq, Repr

/-! ## Fatal errors and output records -/

/-- The fatal codes (R201). -/
inductive Fatal where
  | cfgHalfDuplex
  | cfgInvalid
  | submitDestIsSelf
  | submitOversize
  | queueOverflow
  | extSlotBusy
  | txendBadState
  | txendNoFrame
  | ifgendBadState
  | pauseendBadState
  | startInvariant
  deriving DecidableEq, Repr

/-- What a fatal error records (R201, column "info recorded"). -/
inductive FaultInfo where
  | record (c : CfgRegs)
  | frame (f : Frame)
  | state (x : TxState)
  deriving DecidableEq, Repr

/-- The kinds of output record (R90). -/
inductive OutEvent where
  | tx (f : Frame)
  | deliver (f : Frame)
  | pull
  | txAbort
  | halt (code : Fatal) (info : FaultInfo)
  | reject (f : Frame)
  deriving DecidableEq, Repr

/-- One output record with its emission time (R42, R90). -/
structure OutRecord where
  time  : Time
  event : OutEvent
  deriving DecidableEq, Repr

/-! ## Events as they are delivered -/

/-- Where an event comes from: the environment, or the block's own timers (R81, R220). -/
inductive Source where
  | environment
  | timer
  deriving DecidableEq, Repr

/-- What travels beside the event word: the time stamp (R89), the payload of a frame event (R80), and for SETUP the
configuration record, held as its eight registers (R88; `CfgRegs.ofRecord` reads them from the 512 bits), and the two
draws `conn` and `alloc` (R180, R184). -/
structure Delivery where
  source  : Source
  stamp   : Time
  payload : Payload
  record  : CfgRegs
  conn    : Bool
  alloc   : Mac
  deriving DecidableEq, Repr

/-- An event the environment offers: its word and what travels beside it. -/
structure Arrival where
  word    : EventWord
  stamp   : Time
  payload : Payload
  record  : CfgRegs
  conn    : Bool
  alloc   : Mac
  deriving DecidableEq, Repr

/-- The state of one station (R20). -/
structure State where
  /-- life-cycle register (R22) -/
  phase            : Phase
  /-- protocol state (R23) -/
  txState          : TxState
  /-- staging slot (R26) -/
  slot             : Option Frame
  /-- transmit queue, head first (R27) -/
  queue            : List Frame
  /-- outstanding-pause latch (R28) -/
  pendingPause     : Half
  /-- connectivity flag (R29) -/
  connected        : Bool
  /-- administrative-disable flag (R30) -/
  disabled         : Bool
  /-- a pull request is outstanding (R31) -/
  pullPending      : Bool
  /-- the station's own address (R32) -/
  address          : Mac
  /-- current simulated time (R33) -/
  now              : Time
  /-- when setup completed (R33) -/
  tSetup           : Time
  /-- transmission-end timer (R34) -/
  txEndAt          : Option Time
  /-- gap timer (R34) -/
  ifgEndAt         : Option Time
  /-- pause timer (R34) -/
  pauseEndAt       : Option Time
  /-- time of the last transmission end (R35) -/
  lastTxFinishTime : Option Time
  /-- the fatal error that halted the block (R36) -/
  fault            : Option (Fatal × FaultInfo)
  /-- configuration registers (R37) -/
  cfg              : CfgRegs
  /-- implementation constant OVERHEAD_BYTES (R38): no event writes it; every claim holds for every value -/
  overheadBytes    : Nat
  /-- statistics counters (R40) -/
  counters         : Counters
  /-- cumulative successful-receive time (R41) -/
  rxOkTime         : Time
  /-- output trace, oldest first (R42) -/
  out              : List OutRecord
  /-- sticky refusal mark (R46) -/
  refused          : Bool
  /-- MODEL's own: what the environment has offered and the block has not yet taken, in order -/
  inbox            : List Arrival
  /-- MODEL's own: what travels beside the word of the event being handled -/
  cur              : Delivery
  /-- MODEL's own: which of the events with an equal least stamp goes first, one entry a tie (R212) -/
  ties             : List Nat
  /-- MODEL's own: how many ties have been settled by the free value `Config.tieChoice` -/
  tieDraws         : Nat
  deriving DecidableEq, Repr

/-! ## Power-on values (R240, R45) -/

/-- All eight registers zero. The spec gives them no value before SETUP; zero is the model's (log entry 1). -/
def CfgRegs.zero : CfgRegs := ⟨0, 0, 0, 0, 0, 0, 0, 0⟩

/-- Every counter zero (R45, R240). -/
def Counters.zero : Counters := ⟨0, 0, 0, 0, 0, 0, 0, 0, 0, 0, 0, 0, 0, 0, 0⟩

/-- Nothing delivered yet: the model's own value (log entry 2). -/
def Delivery.none : Delivery := ⟨.environment, 0, ⟨0⟩, CfgRegs.zero, false, 0⟩

/-- The block at power-on (R240). The fields the spec gives no value in UNINIT (`connected`, `disabled`, `address`,
`tSetup`, `cfg`) are zero by DESIGN CHOICE (log entry 1); `overheadBytes` is PRESUMED 8 (log entry 3). -/
def State.reset : State :=
  { phase := .uninit, txState := .idle, slot := .none, queue := [], pendingPause := 0, connected := false,
    disabled := false, pullPending := false, address := 0, now := 0, tSetup := 0, txEndAt := .none, ifgEndAt := .none,
    pauseEndAt := .none, lastTxFinishTime := .none, fault := .none, cfg := CfgRegs.zero, overheadBytes := 8,
    counters := Counters.zero, rxOkTime := 0, out := [], refused := false, inbox := [], cur := Delivery.none,
    ties := [], tieDraws := 0 }

/-! ## Reasons to stop -/

/-- Reasons a step stops with a fault. There is none: every fatal error of the spec is a halt the spec describes as a
state (R205), which RESET leaves again (R207), so it is a NEXT state; see `Fatal` for its codes. The type is closed and
empty. Safe: nothing is stopped that the spec lets go on. -/
inductive Fault where
  deriving DecidableEq, Repr

/-- Reasons a step is refused. The spec's own refusals (R204) are not here: they set the mark `refused` and the block
goes on (R46). -/
inductive Refusal where
  /-- An instruction with no meaning in the model. Raised only by an arm of `exec` that has none; no arm is such, so it
  is never raised. Safe. -/
  | notModelled (mnemonic : String)
  deriving DecidableEq, Repr

/-- The outcome of handling one event. -/
abbrev Outcome := Host.Outcome State Fault Refusal

end Sys2Proof.Machine
end

