-- ==== Sys2Proof/Machine/Operands.lean ====
section
/-!
DEFINITION. The operands: frames assembled from event words (30_encoding.md R82), the fields of the configuration
registers (10_state.md R37, 30_encoding.md R88), durations (00_scope.md R13, 41_transmit.md R124), the 2-bit and 7-bit
codes (R22, R23, R201), and the output words (30_encoding.md R90).
-/

namespace Sys2Proof.Machine

/-! ## Frames from event words (R82) -/

/-- The frame of a SUBMIT word: no channel error flag and no wire length yet (R82). -/
def frameOfSubmit (k : Kind) (o : SubmitOperands) (p : Payload) : Frame :=
  { kind := k, dst := o.dst, src := o.src, srcValid := o.srcValid, len := BitVec.ofNat 16 o.len, wireLen := 0,
    pauseUnits := BitVec.ofNat 16 o.pauseUnits, err := false, payload := p }

/-- The frame of an RX word (R82). -/
def frameOfRx (k : Kind) (o : RxOperands) (p : Payload) : Frame :=
  { kind := k, dst := o.dst, src := o.src, srcValid := o.srcValid, len := BitVec.ofNat 16 o.len,
    wireLen := BitVec.ofNat 16 o.wireLen, pauseUnits := BitVec.ofNat 16 o.pauseUnits, err := o.err, payload := p }

/-! ## Configuration registers (R37, R88) -/

/-- Register `i` of a configuration record, bits [64i+63:64i] (R88). -/
def recordReg (c : CfgRecord) (i : Nat) : Reg := c.extractLsb' (64 * i) 64

/-- The eight registers of a configuration record (R88). -/
def CfgRegs.ofRecord (c : CfgRecord) : CfgRegs :=
  { cfgAddr := recordReg c 0, cfgMode := recordReg c 1, cfgLineRate := recordReg c 2, cfgMinFrame := recordReg c 3,
    cfgMaxFrame := recordReg c 4, cfgIfgBits := recordReg c 5, cfgPauseUnit := recordReg c 6,
    cfgQueueLimit := recordReg c 7 }

/-- The 512-bit record of eight registers, index 7 in the highest bits (R88). -/
def CfgRegs.toRecord (c : CfgRegs) : CfgRecord :=
  c.cfgQueueLimit ++ c.cfgPauseUnit ++ c.cfgIfgBits ++ c.cfgMaxFrame ++ c.cfgMinFrame ++ c.cfgLineRate ++ c.cfgMode ++
    c.cfgAddr

/-- CFG_ADDR[47:0], the address literal. -/
def CfgRegs.addressLiteral (c : CfgRegs) : Mac := c.cfgAddr.extractLsb' 0 48
/-- CFG_MODE[0]: the address is to be "auto"-assigned. -/
def CfgRegs.addrAuto (c : CfgRegs) : Bool := c.cfgMode.getLsbD 0
/-- CFG_MODE[1]: full duplex. -/
def CfgRegs.duplexMode (c : CfgRegs) : Bool := c.cfgMode.getLsbD 1
/-- CFG_MODE[2]: 0 = INTERNAL, 1 = EXTERNAL. -/
def CfgRegs.queueMode (c : CfgRegs) : QueueMode := if c.cfgMode.getLsbD 2 then .external else .internal
/-- CFG_MODE[3]: 0 = FATAL, 1 = REJECT. -/
def CfgRegs.overflowPolicy (c : CfgRegs) : OverflowPolicy := if c.cfgMode.getLsbD 3 then .reject else .fatal
/-- CFG_LINE_RATE[63:0], bits per second. -/
def CfgRegs.lineRate (c : CfgRegs) : Nat := c.cfgLineRate.toNat
/-- CFG_MIN_FRAME[15:0]. -/
def CfgRegs.minFrameBytes (c : CfgRegs) : Nat := (c.cfgMinFrame.extractLsb' 0 16).toNat
/-- CFG_MAX_FRAME[15:0]. -/
def CfgRegs.maxFrameBytes (c : CfgRegs) : Nat := (c.cfgMaxFrame.extractLsb' 0 16).toNat
/-- CFG_IFG_BITS[31:0]. -/
def CfgRegs.interFrameGapBits (c : CfgRegs) : Nat := (c.cfgIfgBits.extractLsb' 0 32).toNat
/-- CFG_PAUSE_UNIT[31:0]. -/
def CfgRegs.pauseUnitBits (c : CfgRegs) : Nat := (c.cfgPauseUnit.extractLsb' 0 32).toNat
/-- CFG_QUEUE_LIMIT[31:0]. -/
def CfgRegs.queueLimit (c : CfgRegs) : Nat := (c.cfgQueueLimit.extractLsb' 0 32).toNat

/-- A bit that no field of R37 lists is 1 in some register. -/
def CfgRegs.reservedBitSet (c : CfgRegs) : Bool :=
  decide (c.cfgAddr.extractLsb' 48 16 ≠ 0) || decide (c.cfgMode.extractLsb' 4 60 ≠ 0) ||
  decide (c.cfgMinFrame.extractLsb' 16 48 ≠ 0) || decide (c.cfgMaxFrame.extractLsb' 16 48 ≠ 0) ||
  decide (c.cfgIfgBits.extractLsb' 32 32 ≠ 0) || decide (c.cfgPauseUnit.extractLsb' 32 32 ≠ 0) ||
  decide (c.cfgQueueLimit.extractLsb' 32 32 ≠ 0)

/-! ## Durations (R13, R124, R129, R131) -/

/-- `bits` bit times at `rate` bits per second, exact. At a rate of zero, which SETUP refuses (R182), the length is a
free value. -/
def bitTime (bits rate : Nat) : Time := if rate = 0 then Config.zeroRateDuration bits else mkRat bits rate

/-- The exact sum of two times, written so that it evaluates on numerals (`later_eq_add` says it is `+`). -/
def later (t d : Time) : Time := mkRat (t.num * d.den + d.num * t.den) (t.den * d.den)

/-- The time a frame of `wireLen` bytes takes on the wire (R124). -/
def CfgRegs.wireTime (c : CfgRegs) (wireLen : Half) : Time := bitTime (wireLen.toNat * 8) c.lineRate

/-- The inter-frame gap (R129). -/
def CfgRegs.gapTime (c : CfgRegs) : Time := bitTime c.interFrameGapBits c.lineRate

/-- The length of a pause of `u` units (R131). -/
def CfgRegs.pauseTime (c : CfgRegs) (u : Half) : Time := bitTime (u.toNat * c.pauseUnitBits) c.lineRate

/-! ## Codes -/

/-- The 2-bit encoding of the life-cycle register (R22). -/
def Phase.code : Phase → BitVec 2
  | .uninit => 0
  | .run => 1
  | .halted => 2
  | .stopped => 3

/-- The 2-bit encoding of the protocol state (R23). -/
def TxState.code : TxState → BitVec 2
  | .idle => 0
  | .transmitting => 1
  | .waitIfg => 2
  | .paused => 3

/-- The fatal code numbers (R201). -/
def Fatal.code : Fatal → BitVec 7
  | .cfgHalfDuplex => 1
  | .cfgInvalid => 2
  | .submitDestIsSelf => 3
  | .submitOversize => 4
  | .queueOverflow => 5
  | .extSlotBusy => 6
  | .txendBadState => 7
  | .txendNoFrame => 8
  | .ifgendBadState => 9
  | .pauseendBadState => 10
  | .startInvariant => 11

/-! ## Output words (R90) -/

/-- An output word with the frame fields of `f`, code `ev`, and `rsv` in bits [15:9]. -/
def frameWord (f : Frame) (rsv : BitVec 7) (ev : BitVec 4) : EventWord :=
  packWord f.src f.dst f.pauseUnits f.wireLen f.len rsv f.srcValid f.err f.kind.code false ev

/-- The 160-bit output word of a record (R90). OUT_HALT carries the fatal code in bits [15:9], and the offending frame
or zero in the frame fields. -/
def OutEvent.word : OutEvent → EventWord
  | .tx f => frameWord f 0 1
  | .deliver f => frameWord f 0 2
  | .pull => packWord 0 0 0 0 0 0 false false 0 false 3
  | .txAbort => packWord 0 0 0 0 0 0 false false 0 false 4
  | .halt code (.frame f) => frameWord f code.code 5
  | .halt code (.record _) => packWord 0 0 0 0 0 code.code false false 0 false 5
  | .halt code (.state _) => packWord 0 0 0 0 0 code.code false false 0 false 5
  | .reject f => frameWord f 0 6

/-- The payload that goes with a frame record (R90). -/
def OutEvent.payload : OutEvent → Option Payload
  | .tx f => some f.payload
  | .deliver f => some f.payload
  | .pull => none
  | .txAbort => none
  | .halt _ (.frame f) => some f.payload
  | .halt _ (.record _) => none
  | .halt _ (.state _) => none
  | .reject f => some f.payload

end Sys2Proof.Machine
end

