-- ==== Sys2Proof/Machine/Flags.lean ====
section
/-!
DEFINITION. The flags and the conditions computed from them: the admission of an event (60_exceptions.md R213, R220), the
connectivity and administrative gate (10_state.md R29, R30, R39), the receive address filter (30_encoding.md R83,
42_receive_pause.md R154), whether a SETUP has completed (R220, 70_reset_and_hazards.md R243), and the receive ratios
(10_state.md R41).
-/

namespace Sys2Proof.Machine

/-- An event of a class that phase `p` accepts is admitted: the block is in that phase and the stamp is not in the past
(R213, R220). -/
def admitted (p : Phase) (s : State) : Bool := decide (s.phase = p) && decide (s.now ≤ s.cur.stamp)

/-- The gate is closed: not connected, or administratively disabled (R102, R121, R153). -/
def gateClosed (s : State) : Bool := !s.connected || s.disabled

/-- The broadcast address, all 48 bits one (R83). -/
def broadcast : Mac := 0xffffffffffff

/-- The group bit, bit 0 of octet 0, which is bit 40 of the value (R83). -/
def isGroup (a : Mac) : Bool := a.getLsbD 40

/-- The receive filter (R154): own unicast, broadcast and every group address pass. -/
def addressedToUs (s : State) (a : Mac) : Bool := decide (a = s.address) || decide (a = broadcast) || isGroup a

/-- The expiry of a timer (R34). -/
def State.timerAt (s : State) : Timer → Option Time
  | .txEnd => s.txEndAt
  | .ifgEnd => s.ifgEndAt
  | .pauseEnd => s.pauseEndAt

/-- The firing of timer `T` is genuine: it comes from the block's own timer, in RUN, at the expiry the timer holds,
which is not in the past (R34, R87, R210, R213). -/
def firing (T : Timer) (s : State) : Bool :=
  decide (s.cur.source = .timer) && decide (s.timerAt T = some s.cur.stamp) && admitted .run s

/-- The fatal codes that SETUP raises, before it has loaded anything (R182, R201). -/
def Fatal.raisedBySetup : Fatal → Bool
  | .cfgHalfDuplex => true
  | .cfgInvalid => true
  | .submitDestIsSelf => false
  | .submitOversize => false
  | .queueOverflow => false
  | .extSlotBusy => false
  | .txendBadState => false
  | .txendNoFrame => false
  | .ifgendBadState => false
  | .pauseendBadState => false
  | .startInvariant => false

/-- A SETUP has completed since power-on or the last RESET, so that the configuration, the address, the connectivity and
disable flags and `tSetup` hold a value (R220, R243). A block that SETUP itself halted holds none (R205). -/
def setupDone (s : State) : Bool :=
  match s.phase with
  | .uninit => false
  | .run => true
  | .stopped => true
  | .halted =>
    match s.fault with
    | none => false
    | some (code, _) => !code.raisedBySetup

/-- The receive utilisation ratio, undefined while `now` = `tSetup` (R41) and while `tSetup` has no value (R243). -/
def utilisation (s : State) : Option Time :=
  if setupDone s = false ∨ s.now = s.tSetup then none else some (s.rxOkTime / (s.now - s.tSetup))

/-- The idle ratio (R41). -/
def idleRatio (s : State) : Option Time := (utilisation s).map fun u => 1 - u

end Sys2Proof.Machine
end

