-- ==== Sys2Proof/Machine/Ops.lean ====
section
/-!
DEFINITION. The named operations over the state: the pseudocode primitives of 00_scope.md R12 (count, add, emit, arm,
disarm, refuse, raise Fatal), the queue primitives of 20_memory.md R63 and R64, refill (40_upper_layer.md R110), the
upper-side drop (R102), and TAKING A FATAL ERROR (60_exceptions.md R205) with the way back from it, the after-RESET
state (10_state.md R45).
-/

namespace Sys2Proof.Machine

/-! ## Counters (R12, R40) -/

/-- A counter by its name. -/
def Counters.get (c : Counters) : Ctr → Counter
  | .fromUpper => c.fromUpper
  | .txFrames => c.txFrames
  | .txBytes => c.txBytes
  | .txPause => c.txPause
  | .txPauseUnits => c.txPauseUnits
  | .rxOkFrames => c.rxOkFrames
  | .rxOkBytes => c.rxOkBytes
  | .rxPause => c.rxPause
  | .rxPauseUnits => c.rxPauseUnits
  | .dropUpDisconn => c.dropUpDisconn
  | .dropUpDisabled => c.dropUpDisabled
  | .dropRxDisconn => c.dropRxDisconn
  | .dropRxDisabled => c.dropRxDisabled
  | .dropBiterr => c.dropBiterr
  | .dropQfull => c.dropQfull

/-- `add C n` on the counters: the counter named gains `n` modulo 2^64 (R12). -/
def Counters.add (c : Counters) (k : Ctr) (n : Nat) : Counters :=
  match k with
  | .fromUpper => { c with fromUpper := c.fromUpper + BitVec.ofNat 64 n }
  | .txFrames => { c with txFrames := c.txFrames + BitVec.ofNat 64 n }
  | .txBytes => { c with txBytes := c.txBytes + BitVec.ofNat 64 n }
  | .txPause => { c with txPause := c.txPause + BitVec.ofNat 64 n }
  | .txPauseUnits => { c with txPauseUnits := c.txPauseUnits + BitVec.ofNat 64 n }
  | .rxOkFrames => { c with rxOkFrames := c.rxOkFrames + BitVec.ofNat 64 n }
  | .rxOkBytes => { c with rxOkBytes := c.rxOkBytes + BitVec.ofNat 64 n }
  | .rxPause => { c with rxPause := c.rxPause + BitVec.ofNat 64 n }
  | .rxPauseUnits => { c with rxPauseUnits := c.rxPauseUnits + BitVec.ofNat 64 n }
  | .dropUpDisconn => { c with dropUpDisconn := c.dropUpDisconn + BitVec.ofNat 64 n }
  | .dropUpDisabled => { c with dropUpDisabled := c.dropUpDisabled + BitVec.ofNat 64 n }
  | .dropRxDisconn => { c with dropRxDisconn := c.dropRxDisconn + BitVec.ofNat 64 n }
  | .dropRxDisabled => { c with dropRxDisabled := c.dropRxDisabled + BitVec.ofNat 64 n }
  | .dropBiterr => { c with dropBiterr := c.dropBiterr + BitVec.ofNat 64 n }
  | .dropQfull => { c with dropQfull := c.dropQfull + BitVec.ofNat 64 n }

/-- `add C n` (R12). -/
def State.addTo (s : State) (k : Ctr) (n : Nat) : State := { s with counters := s.counters.add k n }

/-- `count C` (R12). -/
def State.count (s : State) (k : Ctr) : State := s.addTo k 1

/-! ## Outputs, timers, time, the refusal mark -/

/-- `emit`: one record, stamped `now`, at the end of the trace (R12, R42, R90). -/
def State.emit (s : State) (e : OutEvent) : State := { s with out := s.out ++ [⟨s.now, e⟩] }

/-- `arm T at t` (R12, R34). -/
def State.arm (s : State) (T : Timer) (t : Time) : State :=
  match T with
  | .txEnd => { s with txEndAt := some t }
  | .ifgEnd => { s with ifgEndAt := some t }
  | .pauseEnd => { s with pauseEndAt := some t }

/-- `disarm T` (R12, R34). -/
def State.disarm (s : State) (T : Timer) : State :=
  match T with
  | .txEnd => { s with txEndAt := none }
  | .ifgEnd => { s with ifgEndAt := none }
  | .pauseEnd => { s with pauseEndAt := none }

/-- `s.now <- t`, the first write of every accepted event (R213). -/
def State.arrive (s : State) : State := { s with now := s.cur.stamp }

/-- `refuse`: only the sticky mark changes (R12, R46, R204). -/
def State.refuse (s : State) : State := { s with refused := true }

/-! ## Fatal errors: the halt and the way back -/

/-- What a raised fatal error carries. -/
abbrev Raised := Fatal × FaultInfo

/-- A rule's body: a state, or a fatal error raised on the way. -/
abbrev Body := Except Raised State

/-- TAKING A FATAL ERROR (R205): the state is exactly the pre-event state `s` with `now`, `fault`, `phase` and one
OUT_HALT record written. There is no handler, no vector and no saved return state. -/
def State.halt (s : State) (code : Fatal) (info : FaultInfo) : State :=
  { s with now := s.cur.stamp, fault := some (code, info), phase := .halted,
           out := s.out ++ [⟨s.cur.stamp, .halt code info⟩] }

/-- The end of an event that began in `s`: the state its body reached, or, when the body raised a fatal error, the halt
of `s`, every effect of the body discarded (R205). -/
def conclude (s : State) : Body → State
  | .ok t => t
  | .error (code, info) => s.halt code info

/-- Every field at its "after RESET" value (R45, R188), but for `now`, `out` and `refused`, which RESET keeps, the
implementation constant, and the model's own fields. "No value" is written as at power-on (log entry 1). -/
def State.afterReset (s : State) : State :=
  { s with phase := .uninit, txState := .idle, slot := none, queue := [], pendingPause := 0, connected := false,
           disabled := false, pullPending := false, address := 0, tSetup := 0, txEndAt := none, ifgEndAt := none,
           pauseEndAt := none, lastTxFinishTime := none, fault := none, cfg := CfgRegs.zero,
           counters := Counters.zero, rxOkTime := 0 }

/-! ## The queue and the slot (R63, R64, R110) -/

/-- `QPush(f)`: at the tail (R63). -/
def State.qpush (s : State) (f : Frame) : State := { s with queue := s.queue ++ [f] }

/-- `s.slot <- QPop()`: the head of the queue goes to the slot (R64). An empty queue, which R64's rules never pop, is
left as it is. -/
def State.qpopToSlot (s : State) : State :=
  match s.queue with
  | [] => s
  | f :: rest => { s with slot := some f, queue := rest }

/-- `refill()` (R110). -/
def refill (s : State) : State :=
  if s.slot.isSome then s
  else
    match s.cfg.queueMode with
    | .internal => s.qpopToSlot
    | .external => if s.pullPending then s else { s.emit .pull with pullPending := true }

/-- `dropUpper`: the count of a frame from the upper layer dropped at the gate (R102, R121). -/
def dropUpper (s : State) : State := if s.connected then s.count .dropUpDisabled else s.count .dropUpDisconn

end Sys2Proof.Machine
end

