-- ==== Sys2Proof/Machine/Transmit.lean ====
section
/-!
DEFINITION. The transmission controller and the three timer events (41_transmit.md R120 to R131).
-/

namespace Sys2Proof.Machine

/-- `startFrameTransmission`'s wire frame: the duplicate of the staged frame (R123, R125). -/
def wireFrame (s : State) (f : Frame) : Frame :=
  let len := if f.len.toNat < s.cfg.minFrameBytes then BitVec.ofNat 16 s.cfg.minFrameBytes else f.len
  { f with src := if f.srcValid then f.src else s.address, srcValid := true, len := len,
           wireLen := BitVec.ofNat 16 (len.toNat + s.overheadBytes), err := false }

/-- `startFrameTransmission()` (R123). -/
def startFrameTransmission (s : State) : Body :=
  match s.slot with
  | none => .error (.startInvariant, .state s.txState)
  | some f =>
    if s.connected then
      let d := wireFrame s f
      .ok { (s.emit (.tx d)).arm .txEnd (later s.now (s.cfg.wireTime d.wireLen)) with txState := .transmitting }
    else .error (.startInvariant, .state s.txState)

/-- The gate loop of `beginSendFrames`: while a frame is staged and the gate is closed, drop it, count it and refill
(R121). `fuel` bounds the rounds; `drainGate_slot` shows that one more than the queue's length is enough. -/
def drainGate : Nat → State → State
  | 0, s => s
  | fuel + 1, s =>
    if s.slot.isSome && gateClosed s then drainGate fuel (refill { dropUpper s with slot := none }) else s

/-- `beginSendFrames()` (R120, R121). -/
def beginSendFrames (s : State) : Body :=
  if s.txState = .transmitting then .ok s
  else
    let s := drainGate (s.queue.length + 1) s
    if s.slot.isSome then startFrameTransmission s else .ok { s with txState := .idle }

/-- `schedulePause(u)` (R131). -/
def schedulePause (u : Half) (s : State) : State :=
  { s.arm .pauseEnd (later s.now (s.cfg.pauseTime u)) with txState := .paused }

/-- The sent statistics of a frame whose transmission ended: pause-control frames apart from data frames (R127). -/
def countSent (f : Frame) (s : State) : State :=
  if f.kind = .pause then (s.count .txPause).addTo .txPauseUnits f.pauseUnits.toNat
  else (s.count .txFrames).addTo .txBytes f.len.toNat

/-- The choice at a transmission's end: the latched pause, or the gap (R127). -/
def pauseOrGap (s : State) : State :=
  if s.pendingPause ≠ 0 then schedulePause s.pendingPause { s with pendingPause := 0 }
  else { s.arm .ifgEnd (later s.now s.cfg.gapTime) with txState := .waitIfg }

/-- `onTransmissionEnd()` for the in-flight frame `f` (R127). -/
def onTransmissionEnd (f : Frame) (s : State) : State :=
  pauseOrGap (refill { countSent f s with slot := none, lastTxFinishTime := some s.now })

/-- The body of TX_END (R126): the state check first, then the frame check. -/
def txEndBody (s : State) : Body :=
  if s.txState ≠ .transmitting then .error (.txendBadState, .state s.txState)
  else
    match s.slot with
    | none => .error (.txendNoFrame, .state s.txState)
    | some f => .ok (onTransmissionEnd f s)

/-- TX_END (R126); refused when it is not the block's own timer (R87). -/
def execTxEnd (s : State) : Outcome :=
  .next (if firing .txEnd s then conclude s (txEndBody (s.arrive.disarm .txEnd)) else s.refuse)

/-- The body of IFG_END (R128). -/
def ifgEndBody (s : State) : Body :=
  if s.txState ≠ .waitIfg then .error (.ifgendBadState, .state s.txState) else beginSendFrames s

/-- IFG_END (R128); refused when it is not the block's own timer (R87). -/
def execIfgEnd (s : State) : Outcome :=
  .next (if firing .ifgEnd s then conclude s (ifgEndBody (s.arrive.disarm .ifgEnd)) else s.refuse)

/-- The body of PAUSE_END (R130). -/
def pauseEndBody (s : State) : Body :=
  if s.txState ≠ .paused then .error (.pauseendBadState, .state s.txState) else beginSendFrames s

/-- PAUSE_END (R130); refused when it is not the block's own timer (R87). -/
def execPauseEnd (s : State) : Outcome :=
  .next (if firing .pauseEnd s then conclude s (pauseEndBody (s.arrive.disarm .pauseEnd)) else s.refuse)

end Sys2Proof.Machine
end

