-- ==== Sys2Proof/Machine/Control.lean ====
section
/-!
DEFINITION. The host's events: SETUP, RESET, SHUTDOWN and SET_ADMIN (43_control.md R180 to R193).
-/

namespace Sys2Proof.Machine

/-- `validate(c)`: the first check of R182 that fails, if any. Check 4 is written as a sum, so that an overhead above
65535 leaves no legal maximum. -/
def validate (overhead : Nat) (c : CfgRegs) : Option Fatal :=
  if !c.duplexMode then some .cfgHalfDuplex
  else if c.reservedBitSet then some .cfgInvalid
  else if c.lineRate = 0 then some .cfgInvalid
  else if 65535 < c.maxFrameBytes + overhead then some .cfgInvalid
  else if c.maxFrameBytes < c.minFrameBytes then some .cfgInvalid
  else if c.queueMode = .internal ∧ c.queueLimit = 0 then some .cfgInvalid
  else none

/-- The state a legal SETUP loads, before its first pull (R180, R183, R184, R186, and the "after SETUP" column of
R45). -/
def loadSetup (c : CfgRegs) (s : State) : State :=
  { s with cfg := c, address := if c.addrAuto then s.cur.alloc else c.addressLiteral, connected := s.cur.conn,
           txState := .idle, slot := none, queue := [], pendingPause := 0, disabled := false, pullPending := false,
           txEndAt := none, ifgEndAt := none, pauseEndAt := none, lastTxFinishTime := none, tSetup := s.now,
           fault := none, counters := Counters.zero, rxOkTime := 0, phase := .run }

/-- The body of SETUP (R180). -/
def setupBody (s : State) : Body :=
  let c := s.cur.record
  match validate s.overheadBytes c with
  | some code => .error (code, .record c)
  | none =>
    .ok (match c.queueMode with
      | .internal => loadSetup c s
      | .external => refill (loadSetup c s))

/-- SETUP: accepted in UNINIT, at a stamp not in the past (R180, R181). -/
def execSetup (s : State) : Outcome :=
  .next (if admitted .uninit s then conclude s (setupBody s.arrive) else s.refuse)

/-- RESET: accepted in every phase, at a stamp not in the past; a transmission in progress is aborted (R187, R188). -/
def execReset (s : State) : Outcome :=
  .next
    (if s.now ≤ s.cur.stamp then
      (if s.phase = .run ∧ s.txState = .transmitting then s.arrive.emit .txAbort else s.arrive).afterReset
    else s.refuse)

/-- The body of SHUTDOWN (R190). -/
def shutdownBody (s : State) : State :=
  { (if s.txState = .transmitting then s.emit .txAbort else s) with
    txEndAt := none, ifgEndAt := none, pauseEndAt := none, slot := none, queue := [], pendingPause := 0,
    pullPending := false, txState := .idle, phase := .stopped }

/-- SHUTDOWN: accepted in RUN, at a stamp not in the past (R189, R190). -/
def execShutdown (s : State) : Outcome := .next (if admitted .run s then shutdownBody s.arrive else s.refuse)

/-- The body of SET_ADMIN (R193). -/
def setAdminBody (d : Bool) (s : State) : Body :=
  let t := { s with disabled := d }
  if s.disabled = true ∧ d = false ∧ s.txState = .idle then beginSendFrames (refill t) else .ok t

/-- SET_ADMIN: accepted in RUN, at a stamp not in the past (R192, R193). -/
def execSetAdmin (d : Bool) (s : State) : Outcome :=
  .next (if admitted .run s then conclude s (setAdminBody d s.arrive) else s.refuse)

end Sys2Proof.Machine
end

