-- ==== Sys2Proof/Machine/Receive.lean ====
section
/-!
DEFINITION. RX, a frame from the channel, and the pause-flow-control unit (42_receive_pause.md R150 to R163).
-/

namespace Sys2Proof.Machine

/-- `processPauseCommand(u)` (R160 to R163). -/
def processPauseCommand (u : Half) (s : State) : State :=
  match s.txState with
  | .idle => if u = 0 then s else schedulePause u s
  | .paused => schedulePause u (s.disarm .pauseEnd)
  | .transmitting => { s with pendingPause := u }
  | .waitIfg => { s with pendingPause := u }

/-- The delivered frame: the wire-only overhead stripped back to logical length (R157). -/
def strippedFrame (s : State) (f : Frame) : Frame :=
  let n := BitVec.ofNat 16 (f.wireLen.toNat - s.overheadBytes)
  { f with len := n, wireLen := n, err := false }

/-- `deliverData(f)` (R157). -/
def deliverData (f : Frame) (s : State) : State :=
  let g := strippedFrame s f
  let t := (s.count .rxOkFrames).addTo .rxOkBytes g.len.toNat
  { t with rxOkTime := later t.rxOkTime (t.cfg.wireTime f.wireLen) }.emit (.deliver g)

/-- The body of RX for a DATA frame (R150): bit error, gate, address filter, delivery. -/
def rxDataBody (f : Frame) (s : State) : State :=
  if f.err then s.count .dropBiterr
  else if gateClosed s then (if s.connected then s.count .dropRxDisabled else s.count .dropRxDisconn)
  else if addressedToUs s f.dst then deliverData f s
  else s

/-- The body of RX for a PAUSE frame (R150): bit error, gate (uncounted), address filter, pause command (R156). -/
def rxPauseBody (f : Frame) (s : State) : State :=
  if f.err then s.count .dropBiterr
  else if gateClosed s then s
  else if addressedToUs s f.dst then
    processPauseCommand f.pauseUnits ((s.count .rxPause).addTo .rxPauseUnits f.pauseUnits.toNat)
  else s

/-- RX.DATA: accepted in RUN, at a stamp not in the past, with a wire length that holds the overhead (R150). -/
def execRxData (o : RxOperands) (s : State) : Outcome :=
  let f := frameOfRx .data o s.cur.payload
  .next (if admitted .run s && decide (s.overheadBytes ≤ f.wireLen.toNat) then rxDataBody f s.arrive else s.refuse)

/-- RX.PAUSE: accepted in RUN, at a stamp not in the past (R150). -/
def execRxPause (o : RxOperands) (s : State) : Outcome :=
  .next (if admitted .run s then rxPauseBody (frameOfRx .pause o s.cur.payload) s.arrive else s.refuse)

/-- RX.FILLER: "silently discarded", before every other check (R150, R151). -/
def execRxFiller (_o : RxOperands) (s : State) : Outcome := .next (if admitted .run s then s.arrive else s.refuse)

end Sys2Proof.Machine
end

