-- ==== Sys2Proof/Machine/Submit.lean ====
section
/-!
DEFINITION. SUBMIT, a frame from the upper layer, and its admission to the queue or the slot (40_upper_layer.md R100 to
R106).
-/

namespace Sys2Proof.Machine

/-- Padding: a frame under the minimum is raised to it (R103 (a)). -/
def padFrame (s : State) (f : Frame) : Frame :=
  { f with len := if f.len.toNat < s.cfg.minFrameBytes then BitVec.ofNat 16 s.cfg.minFrameBytes else f.len }

/-- "Assigns a source address if unset" (R103 (c)). -/
def assignSource (s : State) (f : Frame) : Frame :=
  { f with src := if f.srcValid then f.src else s.address, srcValid := true }

/-- `admitInternal(f)` (R104). -/
def admitInternal (f : Frame) (s : State) : Body :=
  if s.cfg.queueLimit ≤ s.queue.length then
    match s.cfg.overflowPolicy with
    | .fatal => .error (.queueOverflow, .frame f)
    | .reject => .ok ((s.count .dropQfull).emit (.reject f))
  else
    let s := s.qpush f
    .ok (if s.slot.isSome then s else s.qpopToSlot)

/-- `admitExternal(f)` (R105). -/
def admitExternal (f : Frame) (s : State) : Body :=
  if s.slot.isSome then .error (.extSlotBusy, .frame f)
  else .ok { s with slot := some f, pullPending := false }

/-- Admission by the queue mode (R100). -/
def admission (f : Frame) (s : State) : Body :=
  match s.cfg.queueMode with
  | .internal => admitInternal f s
  | .external => admitExternal f s

/-- "Triggers `beginSendFrames` if the engine is idle" (R106). -/
def startIfIdle (s : State) : Body := if s.txState = .idle then beginSendFrames s else .ok s

/-- The drop at the closed gate; in EXTERNAL mode the outstanding pull is answered and the next one issued (R102). -/
def dropAtGate (s : State) : State :=
  match s.cfg.queueMode with
  | .internal => dropUpper s
  | .external => refill { dropUpper s with pullPending := false }

/-- The body of SUBMIT, in the order of R100's pseudocode. -/
def submitBody (f : Frame) (s : State) : Body :=
  if f.dst = s.address then .error (.submitDestIsSelf, .frame f)
  else if s.cfg.maxFrameBytes < f.len.toNat then .error (.submitOversize, .frame f)
  else
    let g := padFrame s f
    let s := s.count .fromUpper
    if gateClosed s then .ok (dropAtGate s)
    else (admission (assignSource s g) s).bind startIfIdle

/-- SUBMIT of a DATA or PAUSE frame: accepted in RUN, at a stamp not in the past (R100, R220). -/
def submit (f : Frame) (s : State) : Outcome :=
  .next (if admitted .run s then conclude s (submitBody f s.arrive) else s.refuse)

/-- SUBMIT.DATA (R100). -/
def execSubmitData (o : SubmitOperands) (s : State) : Outcome := submit (frameOfSubmit .data o s.cur.payload) s

/-- SUBMIT.PAUSE: "handled exactly like a DATA frame here" (R100, R112). -/
def execSubmitPause (o : SubmitOperands) (s : State) : Outcome := submit (frameOfSubmit .pause o s.cur.payload) s

/-- SUBMIT.FILLER: a valid word whose event is refused in every state (R87, R100, R204). -/
def execSubmitFiller (_o : SubmitOperands) (s : State) : Outcome := .next s.refuse

end Sys2Proof.Machine
end

