-- ==== Sys2Proof/Machine/Dispatch.lean ====
section
/-!
DEFINITION. One arm per event form, each a direct call of its meaning.
-/

namespace Sys2Proof.Machine

def exec (i : Instr) (s : State) : Host.Outcome State Fault Refusal :=
  match i with
  | .submitData o => Sys2Proof.Machine.execSubmitData o s
  | .submitPause o => Sys2Proof.Machine.execSubmitPause o s
  | .submitFiller o => Sys2Proof.Machine.execSubmitFiller o s
  | .rxData o => Sys2Proof.Machine.execRxData o s
  | .rxPause o => Sys2Proof.Machine.execRxPause o s
  | .rxFiller o => Sys2Proof.Machine.execRxFiller o s
  | .txEnd => Sys2Proof.Machine.execTxEnd s
  | .ifgEnd => Sys2Proof.Machine.execIfgEnd s
  | .pauseEnd => Sys2Proof.Machine.execPauseEnd s
  | .setAdmin disable => Sys2Proof.Machine.execSetAdmin disable s
  | .shutdown => Sys2Proof.Machine.execShutdown s
  | .setup => Sys2Proof.Machine.execSetup s
  | .reset => Sys2Proof.Machine.execReset s

end Sys2Proof.Machine
end

