-- ==== Sys2Proof/Machine/Fetch.lean ====
section
/-!
DEFINITION. Which event the block takes next: the earliest of what the environment has offered and what its own armed
timers hold (60_exceptions.md R210 to R212), any order among equal stamps.
-/

namespace Sys2Proof.Machine

/-- A candidate for the next event: the first event offered by the environment, or a timer's firing. -/
inductive Choice where
  | arrival
  | timer (T : Timer)
  deriving DecidableEq, Repr

/-- What an arrival hands to the rule that handles it. -/
def Arrival.delivery (a : Arrival) : Delivery :=
  { source := .environment, stamp := a.stamp, payload := a.payload, record := a.record, conn := a.conn,
    alloc := a.alloc }

/-- The event a timer fires (R34). -/
def Timer.event : Timer → Instr
  | .txEnd => .txEnd
  | .ifgEnd => .ifgEnd
  | .pauseEnd => .pauseEnd

/-- The first event the environment has offered, with its stamp. -/
def offered (s : State) : List (Time × Choice) :=
  match s.inbox with
  | [] => []
  | a :: _ => [(a.stamp, .arrival)]

/-- An armed timer as a candidate. -/
def armedTimer (s : State) (T : Timer) : List (Time × Choice) :=
  match s.timerAt T with
  | none => []
  | some t => [(t, .timer T)]

/-- The timers that can fire: the armed ones, in RUN only (R210, R220). -/
def armedTimers (s : State) : List (Time × Choice) :=
  if s.phase = .run then armedTimer s .txEnd ++ armedTimer s .ifgEnd ++ armedTimer s .pauseEnd else []

/-- Those of the candidates whose stamp is the least (R211). -/
def earliest (cs : List (Time × Choice)) : List (Time × Choice) := cs.filter fun c => cs.all fun d => decide (c.1 ≤ d.1)

/-- The candidates that may be taken now. -/
def enabled (s : State) : List (Time × Choice) := earliest (offered s ++ armedTimers s)

/-- How the next tie falls: the first entry of `ties`, or, when the state lists none, the free value (R212). -/
def drawTie (s : State) : Nat × State :=
  match s.ties with
  | k :: rest => (k, { s with ties := rest })
  | [] => (Config.tieChoice s.tieDraws, { s with tieDraws := s.tieDraws + 1 })

/-- The next event, if there is one, and the state after the tie is settled. -/
def choose (s : State) : Option (Choice × State) :=
  match enabled s with
  | [] => none
  | [c] => some (c.2, s)
  | c :: d :: cs => some (((c :: d :: cs).getD ((drawTie s).1 % (cs.length + 2)) c).2, (drawTie s).2)

/-- What the block has in hand for a step. -/
inductive Fetched where
  /-- nothing is offered and no timer is armed: the block waits -/
  | nothing
  /-- a word that spells no event (R85) -/
  | invalid (why : Invalid)
  /-- an event to handle -/
  | event (i : Instr)
  deriving DecidableEq, Repr

/-- Take the event chosen: the state then holds what travels beside it, and the environment's list is shorter by one if
it was offered. A timer's event carries its expiry as its stamp (R89). -/
def take (s : State) : Choice → Fetched × State
  | .arrival =>
    match s.inbox with
    | [] => (.nothing, s)
    | a :: rest =>
      match decode a.word with
      | .ok i => (.event i, { s with inbox := rest, cur := a.delivery })
      | .error e => (.invalid e, { s with inbox := rest, cur := a.delivery })
  | .timer T =>
    match s.timerAt T with
    | none => (.nothing, s)
    | some t => (.event T.event, { s with cur := { s.cur with source := .timer, stamp := t } })

/-- The next event and the state in which it is handled. -/
def fetch (s : State) : Fetched × State :=
  match choose s with
  | none => (.nothing, s)
  | some (c, t) => take t c

/-- The least of `now` and the expiries of the timers that can fire. -/
def earliestStamp (s : State) : Time := (armedTimers s).foldl (fun m c => if c.1 ≤ m then c.1 else m) s.now

/-- The event word `w` offered at the head of the environment's list, so that the very next step takes it: stamped `now`
(or the expiry of an overdue timer, which no run has), with an empty payload, a configuration record of zeros and draws
of zero beside it, and ahead of a timer that expires at the same stamp. -/
def placeWord (s : State) (w : EventWord) : State :=
  let t := earliestStamp s
  { s with inbox := { word := w, stamp := t, payload := ⟨0⟩, record := CfgRegs.zero, conn := false, alloc := 0 } :: s.inbox,
           ties := if (armedTimers s).any (fun c => decide (c.1 = t)) then 0 :: s.ties else s.ties }

end Sys2Proof.Machine
end

