-- ==== Sys2Proof/Machine/Step.lean ====
section
/-!
DEFINITION. One step: take the next event and handle it whole (20_memory.md R66, R67).
-/

namespace Sys2Proof.Machine

/-- One step of the block. With nothing offered and no timer armed it waits, unchanged; a word that spells no event is
refused (R85); an event is handled by its meaning. -/
def step (s : State) : Host.Outcome State Fault Refusal :=
  match fetch s with
  | (.nothing, t) => .next t
  | (.invalid _, t) => .next t.refuse
  | (.event i, t) => exec i t

/-- `s` with an event word stored where `step` takes its next event (see `placeWord`). -/
def State.withFetchWord (s : State) (nbits w : Nat) : State := placeWord s (tableWord nbits w)

end Sys2Proof.Machine
end

