-- ==== Sys2Proof/Machine/Script.lean ====
section
/-!
DEFINITION. The event-script line syntax and its pseudo-events (30_encoding.md R92, R93): parsing a line, expanding it,
and assembling it into what the environment offers. A script is a way to write a launch down (R256); no step reads one.
-/

namespace Sys2Proof.Machine

/-- The arguments of a SETUP line (R92); no address means `auto`. -/
structure SetupArgs where
  addr     : Option Mac
  mode     : QueueMode
  policy   : OverflowPolicy
  rate     : Nat
  min      : Nat
  max      : Nat
  ifg      : Nat
  unitBits : Nat
  qlimit   : Nat
  duplex   : Bool
  deriving DecidableEq, Repr

/-- One event of a script: the forms of R92, then the pseudo-events of R93. -/
inductive ScriptEvent where
  | submit (kind : Kind) (dst : Mac) (src : Option Mac) (len pause : Nat)
  | rx (kind : Kind) (dst src : Mac) (wire pause : Nat) (err : Bool)
  | setAdmin (disable : Bool)
  | shutdown
  | setup (a : SetupArgs)
  | reset
  | disable
  | enable
  | rxPause (n : Nat) (src : Option Mac)
  | sendPause (n : Nat)
  deriving DecidableEq, Repr

/-- One line of a script: a time stamp and an event. -/
structure ScriptLine where
  stamp : Time
  event : ScriptEvent
  deriving DecidableEq, Repr

/-- A line that is of none of the forms is "refused by name and line" (R92): its number, from 1, and its text. -/
structure ScriptError where
  line : Nat
  text : String
  deriving DecidableEq, Repr

/-! ## Lexing -/

/-- A text as a list of characters. -/
abbrev Token := List Char

/-- The pieces of a text between the separators `sep`. -/
def splitAt (sep : Char) : Token → List Token
  | [] => [[]]
  | c :: cs =>
    match splitAt sep cs with
    | [] => [[c]]
    | p :: ps => if c = sep then [] :: p :: ps else (c :: p) :: ps

/-- The words of a line. -/
def wordsOf (line : Token) : List Token := (splitAt ' ' line).filter fun w => !w.isEmpty

/-- A decimal digit. -/
def digit (c : Char) : Option Nat :=
  if 48 ≤ c.toNat ∧ c.toNat ≤ 57 then some (c.toNat - 48) else none

/-- A hexadecimal digit, either case. -/
def hexDigit (c : Char) : Option Nat :=
  if 48 ≤ c.toNat ∧ c.toNat ≤ 57 then some (c.toNat - 48)
  else if 97 ≤ c.toNat ∧ c.toNat ≤ 102 then some (c.toNat - 87)
  else if 65 ≤ c.toNat ∧ c.toNat ≤ 70 then some (c.toNat - 55)
  else none

/-- Digits read on from the number `n`. -/
def digitsFrom : Nat → Token → Option Nat
  | n, [] => some n
  | n, c :: cs =>
    match digit c with
    | some d => digitsFrom (10 * n + d) cs
    | none => none

/-- `<n>`: a decimal number. -/
def readNat : Token → Option Nat
  | [] => none
  | cs => digitsFrom 0 cs

/-- How many of a time suffix make a second: `s`, `ms`, `us`, `ns`, or none for seconds. -/
def suffixScale (cs : Token) : Option Nat :=
  if cs = [] then some 1
  else if cs = ['s'] then some 1
  else if cs = ['m', 's'] then some 1000
  else if cs = ['u', 's'] then some 1000000
  else if cs = ['n', 's'] then some 1000000000
  else none

/-- The characters `<time>` is a number of. -/
def isNumberChar (c : Char) : Bool := (digit c).isSome || decide (c = '.')

/-- `<time>`: "a decimal number of seconds with an optional suffix … read as an exact rational" (R92). -/
def readTime (cs : Token) : Option Time :=
  match suffixScale (cs.dropWhile isNumberChar), splitAt '.' (cs.takeWhile isNumberChar) with
  | some scale, [whole] => (readNat whole).map fun n => mkRat n scale
  | some scale, [whole, part] =>
    match readNat whole, readNat part with
    | some n, some m => some (mkRat (n * 10 ^ part.length + m : Nat) (10 ^ part.length * scale))
    | _, _ => none
  | _, _ => none

/-- Six two-digit hexadecimal octets, octet 0 first (R11, R83). -/
def octetsFrom : Nat → List Token → Option Nat
  | n, [] => some n
  | n, [a, b] :: rest =>
    match hexDigit a, hexDigit b with
    | some x, some y => octetsFrom (256 * n + 16 * x + y) rest
    | _, _ => none
  | _, _ :: _ => none

/-- `<mac>`: `aa-bb-cc-dd-ee-ff`. -/
def readMac (cs : Token) : Option Mac :=
  if (splitAt '-' cs).length = 6 then (octetsFrom 0 (splitAt '-' cs)).map (BitVec.ofNat 48) else none

/-! ## Parsing a line -/

/-- The value of a word `key=value`. -/
def valueOf (key : String) (w : Token) : Option Token :=
  if w.take (key.length + 1) = key.toList ++ ['='] then some (w.drop (key.length + 1)) else none

/-- An option the form requires at this place: its value and the words after it. -/
def need {α : Type} (key : String) (read : Token → Option α) : List Token → Option (α × List Token)
  | [] => none
  | w :: ws => ((valueOf key w).bind read).map fun v => (v, ws)

/-- An option the form may leave out at this place. A word with the key and an unreadable value is no such option. -/
def may {α : Type} (key : String) (read : Token → Option α) : List Token → Option (Option α × List Token)
  | [] => some (none, [])
  | w :: ws =>
    match valueOf key w with
    | none => some (none, w :: ws)
    | some v => (read v).map fun x => (some x, ws)

/-- A word of a closed list. -/
def readOneOf {α : Type} (table : List (String × α)) (cs : Token) : Option α :=
  match table with
  | [] => none
  | (name, v) :: rest => if cs = name.toList then some v else readOneOf rest cs

/-- `<DATA|PAUSE>`. -/
def readSubmitKind : Token → Option Kind := readOneOf [("DATA", .data), ("PAUSE", .pause)]
/-- `<DATA|PAUSE|FILLER>`. -/
def readRxKind : Token → Option Kind := readOneOf [("DATA", .data), ("PAUSE", .pause), ("FILLER", .filler)]
/-- `<mac|auto>`. -/
def readMacOrAuto (cs : Token) : Option (Option Mac) := if cs = "auto".toList then some none else (readMac cs).map some
/-- `<internal|external>`. -/
def readMode : Token → Option QueueMode := readOneOf [("internal", .internal), ("external", .external)]
/-- `<fatal|reject>`. -/
def readPolicy : Token → Option OverflowPolicy := readOneOf [("fatal", .fatal), ("reject", .reject)]
/-- `<0|1>`. -/
def readBit : Token → Option Bool := readOneOf [("0", false), ("1", true)]

/-- `SUBMIT kind=… dst=… [src=…] len=… [pause=…]`. -/
def parseSubmit (ws : List Token) : Option ScriptEvent := do
  let (kind, ws) ← need "kind" readSubmitKind ws
  let (dst, ws) ← need "dst" readMac ws
  let (src, ws) ← may "src" readMac ws
  let (len, ws) ← need "len" readNat ws
  let (pause, ws) ← may "pause" readNat ws
  if ws = [] then some (.submit kind dst src len (pause.getD 0)) else none

/-- `RX kind=… dst=… src=… wire=… [pause=…] [err]`. -/
def parseRx (ws : List Token) : Option ScriptEvent := do
  let (kind, ws) ← need "kind" readRxKind ws
  let (dst, ws) ← need "dst" readMac ws
  let (src, ws) ← need "src" readMac ws
  let (wire, ws) ← need "wire" readNat ws
  let (pause, ws) ← may "pause" readNat ws
  if ws = [] then some (.rx kind dst src wire (pause.getD 0) false)
  else if ws = ["err".toList] then some (.rx kind dst src wire (pause.getD 0) true)
  else none

/-- `SETUP addr=… mode=… policy=… rate=… min=… max=… ifg=… unit=… qlimit=… [duplex=…]`; `duplex` defaults to 1. -/
def parseSetup (ws : List Token) : Option ScriptEvent := do
  let (addr, ws) ← need "addr" readMacOrAuto ws
  let (mode, ws) ← need "mode" readMode ws
  let (policy, ws) ← need "policy" readPolicy ws
  let (rate, ws) ← need "rate" readNat ws
  let (min, ws) ← need "min" readNat ws
  let (max, ws) ← need "max" readNat ws
  let (ifg, ws) ← need "ifg" readNat ws
  let (unitBits, ws) ← need "unit" readNat ws
  let (qlimit, ws) ← need "qlimit" readNat ws
  let (duplex, ws) ← may "duplex" readBit ws
  if ws = [] then
    some (.setup { addr, mode, policy, rate, min, max, ifg, unitBits, qlimit, duplex := duplex.getD true })
  else none

/-- `RXPAUSE <n> [src=…]` (R93). -/
def parseRxPause : List Token → Option ScriptEvent
  | [] => none
  | w :: ws => do
    let n ← readNat w
    let (src, ws) ← may "src" readMac ws
    if ws = [] then some (.rxPause n src) else none

/-- `SENDPAUSE <n>` (R93). -/
def parseSendPause : List Token → Option ScriptEvent
  | [w] => (readNat w).map .sendPause
  | _ => none

/-- An event by its name. -/
def parseEvent : List Token → Option ScriptEvent
  | [] => none
  | w :: ws =>
    if w = "SUBMIT".toList then parseSubmit ws
    else if w = "RX".toList then parseRx ws
    else if w = "SET_ADMIN".toList then
      if ws = ["disable".toList] then some (.setAdmin true)
      else if ws = ["enable".toList] then some (.setAdmin false)
      else none
    else if w = "SHUTDOWN".toList then (if ws = [] then some .shutdown else none)
    else if w = "SETUP".toList then parseSetup ws
    else if w = "RESET".toList then (if ws = [] then some .reset else none)
    else if w = "DISABLE".toList then (if ws = [] then some .disable else none)
    else if w = "ENABLE".toList then (if ws = [] then some .enable else none)
    else if w = "RXPAUSE".toList then parseRxPause ws
    else if w = "SENDPAUSE".toList then parseSendPause ws
    else none

/-- A script line `@<time> <event>` (R92). -/
def parseLine (line : Token) : Option ScriptLine :=
  match wordsOf line with
  | ('@' :: t) :: ws =>
    match readTime t, parseEvent ws with
    | some stamp, some event => some { stamp, event }
    | _, _ => none
  | _ => none

/-- The lines of a script from line number `n` on; the first that has no form of R92 or R93 is refused. -/
def parseFrom : Nat → List String → Except ScriptError (List ScriptLine)
  | _, [] => .ok []
  | n, l :: ls =>
    match parseLine l.toList with
    | none => .error { line := n, text := l }
    | some x =>
      match parseFrom (n + 1) ls with
      | .ok xs => .ok (x :: xs)
      | .error e => .error e

/-- A script, one event a line (R92). -/
def parseScript (ls : List String) : Except ScriptError (List ScriptLine) := parseFrom 1 ls

/-! ## Assembling (R92, R93) -/

/-- The PAUSE destination of the pseudo-events, 01-80-c2-00-00-01 (R93); the block gives it no special meaning. -/
def pauseMulticast : Mac := 0x0180c2000001

/-- The registers of a SETUP line; `none` when a number does not fit a 64-bit register. -/
def SetupArgs.regs (a : SetupArgs) : Option CfgRegs :=
  if a.rate < 2 ^ 64 ∧ a.min < 2 ^ 64 ∧ a.max < 2 ^ 64 ∧ a.ifg < 2 ^ 64 ∧ a.unitBits < 2 ^ 64 ∧ a.qlimit < 2 ^ 64 then
    some
      { cfgAddr := (a.addr.getD 0).zeroExtend 64,
        cfgMode := BitVec.ofNat 64
          ((if a.addr = none then 1 else 0) + (if a.duplex then 2 else 0) + (if a.mode = .external then 4 else 0) +
            (if a.policy = .reject then 8 else 0)),
        cfgLineRate := BitVec.ofNat 64 a.rate, cfgMinFrame := BitVec.ofNat 64 a.min,
        cfgMaxFrame := BitVec.ofNat 64 a.max, cfgIfgBits := BitVec.ofNat 64 a.ifg,
        cfgPauseUnit := BitVec.ofNat 64 a.unitBits, cfgQueueLimit := BitVec.ofNat 64 a.qlimit }
  else none

/-- The events of R93 rewritten to those of R92; `minFrame` and `overhead` are the launch's. -/
def ScriptEvent.expand (minFrame overhead : Nat) : ScriptEvent → ScriptEvent
  | .disable => .setAdmin true
  | .enable => .setAdmin false
  | .rxPause n src => .rx .pause pauseMulticast (src.getD 0) (minFrame + overhead) n false
  | .sendPause n => .submit .pause pauseMulticast none 0 n
  | .submit kind dst src len pause => .submit kind dst src len pause
  | .rx kind dst src wire pause err => .rx kind dst src wire pause err
  | .setAdmin d => .setAdmin d
  | .shutdown => .shutdown
  | .setup a => .setup a
  | .reset => .reset

/-- The instruction and the configuration record of an expanded event. `src=` present sets S = 1; L of an RX is the wire
length less the overhead, or 0 (R92). -/
def ScriptEvent.instr (overhead : Nat) : ScriptEvent → Option (Instr × CfgRegs)
  | .submit kind dst src len pause =>
    some (submitInstr kind { srcValid := src.isSome, src := src.getD 0, dst, len, pauseUnits := pause }, CfgRegs.zero)
  | .rx kind dst src wire pause err =>
    some (rxInstr kind { err, srcValid := true, src, dst, len := wire - overhead, wireLen := wire, pauseUnits := pause },
      CfgRegs.zero)
  | .setAdmin d => some (.setAdmin d, CfgRegs.zero)
  | .shutdown => some (.shutdown, CfgRegs.zero)
  | .setup a => a.regs.map fun c => (.setup, c)
  | .reset => some (.reset, CfgRegs.zero)
  | .disable => none
  | .enable => none
  | .rxPause _ _ => none
  | .sendPause _ => none

/-- What the environment offers for a script line: the word, the stamp, a payload, the record, and the launch's draws.
A line whose numbers fit no event word is refused. -/
def ScriptLine.arrival (minFrame overhead : Nat) (payload : Payload) (conn : Bool) (alloc : Mac) (l : ScriptLine) :
    Option Arrival :=
  match (l.event.expand minFrame overhead).instr overhead with
  | none => none
  | some (i, record) =>
    if i.wellFormed then some { word := encode i, stamp := l.stamp, payload, record, conn, alloc } else none

end Sys2Proof.Machine
end

