-- ==== Sys2Proof/Safety.lean ====
section
/-!
DEFINITION. What counts as a safe run: the launch premises of 70_reset_and_hazards.md R245, the invariant of
10_state.md R44, refused events (60_exceptions.md R204), and the end of a run with its observation (R256).
-/

namespace Sys2Proof.Machine

/-! ## Outputs read as claims -/

/-- An OUT_HALT record (R90). -/
def OutEvent.isHalt : OutEvent → Bool
  | .halt _ _ => true
  | .tx _ => false
  | .deliver _ => false
  | .pull => false
  | .txAbort => false
  | .reject _ => false

/-- An OUT_TX record (R90). -/
def OutEvent.isTx : OutEvent → Bool
  | .tx _ => true
  | .halt _ _ => false
  | .deliver _ => false
  | .pull => false
  | .txAbort => false
  | .reject _ => false

/-! ## Launch premises (R245) -/

/-- `Clean`: no refusal, and no OUT_HALT record in the trace (R245, R207). -/
def Clean (s : State) : Prop := s.refused = false ∧ ∀ r ∈ s.out, r.event.isHalt = false

/-- `PowerOn`: every field the spec gives a power-on value holds it (R240). The fields it gives none, the implementation
constant and the model's own fields are free. -/
structure PowerOn (s : State) : Prop where
  phase : s.phase = .uninit
  txState : s.txState = .idle
  slot : s.slot = none
  queue : s.queue = []
  pendingPause : s.pendingPause = 0
  pullPending : s.pullPending = false
  now : s.now = 0
  txEndAt : s.txEndAt = none
  ifgEndAt : s.ifgEndAt = none
  pauseEndAt : s.pauseEndAt = none
  lastTxFinishTime : s.lastTxFinishTime = none
  fault : s.fault = none
  counters : s.counters = Counters.zero
  rxOkTime : s.rxOkTime = 0
  out : s.out = []
  refused : s.refused = false

/-- A legal configuration: no check of R182 fails. -/
def Legal (overhead : Nat) (c : CfgRegs) : Prop := validate overhead c = none

/-- `Ready(c, conn, alloc)`: reached from `PowerOn` by exactly SETUP(`c`, `t0`, `conn`, `alloc`) with `c` legal (R245). -/
def Ready (c : CfgRegs) (t0 : Time) (conn : Bool) (alloc : Mac) (s : State) : Prop :=
  ∃ s0, PowerOn s0 ∧ 0 ≤ t0 ∧ Legal s0.overheadBytes c ∧ s0.cur.record = c ∧ s0.cur.stamp = t0 ∧ s0.cur.conn = conn ∧
    s0.cur.alloc = alloc ∧ exec .setup s0 = .next s

/-- `Connected`: `Ready` with `conn` = 1 (R245). -/
def Connected (c : CfgRegs) (t0 : Time) (alloc : Mac) (s : State) : Prop := Ready c t0 true alloc s

/-- `Quiet`: phase RUN, IDLE, no timer armed, slot and queue empty (R245). -/
structure Quiet (s : State) : Prop where
  phase : s.phase = .run
  txState : s.txState = .idle
  txEndAt : s.txEndAt = none
  ifgEndAt : s.ifgEndAt = none
  pauseEndAt : s.pauseEndAt = none
  slot : s.slot = none
  queue : s.queue = []

/-! ## The invariant of phase RUN (R44) -/

/-- The frames the block holds: the staged one and those waiting behind it. -/
def heldFrames (s : State) : List Frame := s.slot.toList ++ s.queue

/-- A frame the block may hold under the configuration `c` (R44 item 6). -/
structure FrameOk (c : CfgRegs) (f : Frame) : Prop where
  srcValid : f.srcValid = true
  minLen : c.minFrameBytes ≤ f.len.toNat
  maxLen : f.len.toNat ≤ c.maxFrameBytes
  kind : f.kind ≠ .filler

/-- What holds in phase RUN after every event (R44). Item 7's clause on the trace is a claim about steps, since RESET
keeps the records of an earlier, connected launch; `legal` is what SETUP checked (R182). -/
structure RunInv (s : State) : Prop where
  legal : Legal s.overheadBytes s.cfg
  txTimer : s.txState = .transmitting ↔ s.txEndAt ≠ none
  ifgTimer : s.txState = .waitIfg ↔ s.ifgEndAt ≠ none
  pauseTimer : s.txState = .paused ↔ s.pauseEndAt ≠ none
  inFlight : s.txState = .transmitting → s.slot ≠ none
  idleEmpty : s.txState = .idle → s.slot = none ∧ s.queue = []
  internal : s.cfg.queueMode = .internal →
    (s.slot = none → s.queue = []) ∧ s.queue.length ≤ s.cfg.queueLimit ∧ s.pullPending = false
  external : s.cfg.queueMode = .external → s.queue = [] ∧ (s.pullPending = true → s.slot = none)
  frames : ∀ f ∈ heldFrames s, FrameOk s.cfg f
  gated : s.connected = false → s.slot = none ∧ s.queue = [] ∧ (s.txState = .idle ∨ s.txState = .paused)
  future : ∀ T t, s.timerAt T = some t → s.now ≤ t

/-- The invariant that every step keeps (R44). -/
def Inv (s : State) : Prop := s.phase = .run → RunInv s

/-! ## Refused events (R204, R250) -/

/-- The phases and stamps an event is refused in (R204, R213, R220), with the two refusals of its own operands: a SUBMIT
of a FILLER frame (R100), an RX of a DATA frame shorter than the overhead (R150); and a timer event that is not the
block's own (R87). -/
def RefusedEvent (i : Instr) (s : State) : Prop :=
  match i with
  | .submitData _ => s.phase ≠ .run ∨ s.cur.stamp < s.now
  | .submitPause _ => s.phase ≠ .run ∨ s.cur.stamp < s.now
  | .submitFiller _ => True
  | .rxData o => s.phase ≠ .run ∨ s.cur.stamp < s.now ∨ o.wireLen % 65536 < s.overheadBytes
  | .rxPause _ => s.phase ≠ .run ∨ s.cur.stamp < s.now
  | .rxFiller _ => s.phase ≠ .run ∨ s.cur.stamp < s.now
  | .txEnd => s.phase ≠ .run ∨ s.cur.stamp < s.now ∨ s.cur.source = .environment ∨ s.txEndAt ≠ some s.cur.stamp
  | .ifgEnd => s.phase ≠ .run ∨ s.cur.stamp < s.now ∨ s.cur.source = .environment ∨ s.ifgEndAt ≠ some s.cur.stamp
  | .pauseEnd => s.phase ≠ .run ∨ s.cur.stamp < s.now ∨ s.cur.source = .environment ∨ s.pauseEndAt ≠ some s.cur.stamp
  | .setAdmin _ => s.phase ≠ .run ∨ s.cur.stamp < s.now
  | .shutdown => s.phase ≠ .run ∨ s.cur.stamp < s.now
  | .setup => s.phase ≠ .uninit ∨ s.cur.stamp < s.now
  | .reset => s.cur.stamp < s.now

/-! ## Which event a step takes (R211) -/

/-- The first event the environment has offered is strictly earlier than every timer that can fire. -/
def HeadFirst (s : State) (a : Arrival) (rest : List Arrival) : Prop :=
  s.inbox = a :: rest ∧ (s.phase = .run → ∀ T te, s.timerAt T = some te → a.stamp < te)

/-- Timer `T`, armed for `te`, is strictly earlier than every other timer and than what the environment has offered. -/
def TimerFirst (s : State) (T : Timer) (te : Time) : Prop :=
  s.phase = .run ∧ s.timerAt T = some te ∧ (∀ T' te', T' ≠ T → s.timerAt T' = some te' → te < te') ∧
    ∀ a ∈ s.inbox.head?, te < a.stamp

/-- The state in which the first offered event is handled. -/
def handling (s : State) (a : Arrival) (rest : List Arrival) : State := { s with inbox := rest, cur := a.delivery }

/-- The state in which a timer's firing at `te` is handled. -/
def firingAt (s : State) (te : Time) : State := { s with cur := { s.cur with source := .timer, stamp := te } }

/-- The firing of timer `T` is genuine and due: in RUN, from the block's own timer, at its expiry (R34, R210). -/
def Due (T : Timer) (s : State) : Prop :=
  s.phase = .run ∧ s.cur.source = .timer ∧ s.timerAt T = some s.cur.stamp ∧ s.now ≤ s.cur.stamp

/-- The frame that SUBMIT makes of its operands before admission, field by field: padded to the minimum, its source set if
it was unset (R82, R103). -/
def readyFrame (k : Kind) (o : SubmitOperands) (s : State) : Frame :=
  { kind := k, dst := o.dst, src := if o.srcValid then o.src else s.address, srcValid := true,
    len := BitVec.ofNat 16 (max (o.len % 65536) s.cfg.minFrameBytes), wireLen := 0,
    pauseUnits := BitVec.ofNat 16 o.pauseUnits, err := false, payload := s.cur.payload }

/-! ## Launches and the end of a run (R256) -/

/-- A launch's state: power-on, with the script's events offered and how ties fall. -/
def launch (overhead : Nat) (script : List Arrival) (ties : List Nat) : State :=
  { State.reset with overheadBytes := overhead, inbox := script, ties := ties }

/-- The script of a launch: non-decreasing stamps, none below 0, the first event a SETUP (R256). -/
def LegalScript (script : List Arrival) : Prop :=
  (∃ a rest, script = a :: rest ∧ decode a.word = .ok .setup) ∧ (∀ a ∈ script, 0 ≤ a.stamp) ∧
    script.Pairwise fun a b => a.stamp ≤ b.stamp

/-- The end of a run: every event of the script taken and no timer that can fire (R256). -/
def Ended (s : State) : Prop := enabled s = []

/-- What is observed of an end state (R256). -/
structure Observation where
  out      : List OutRecord
  counters : Counters
  rxOkTime : Time
  txState  : TxState
  phase    : Phase
  fault    : Option (Fatal × FaultInfo)
  refused  : Bool
  deriving DecidableEq, Repr

/-- The observation of a state (R256). -/
def observe (s : State) : Observation :=
  { out := s.out, counters := s.counters, rxOkTime := s.rxOkTime, txState := s.txState, phase := s.phase,
    fault := s.fault, refused := s.refused }

/-- An end state that refutes no claim of correct operation: not halted, `Clean` (R256, R206, R207). -/
def CorrectEnd (s : State) : Prop := Ended s ∧ s.phase ≠ .halted ∧ Clean s

end Sys2Proof.Machine
end

