-- ==== Sys2Proof/Certificates/Slice0/Obligations.lean ====
section
/-!
DEFINITION. The statements for the provers, family by family: encoding, the step, refusals and time, the halt, setup and
reset, SUBMIT and the queue arbiter, the transmission controller, RX and pause, host control, and the invariants of the
whole block.
-/

open Sys2Proof Sys2Proof.Machine

/-! ## Encoding -/

/-- R80, R81, R82, R87: no operand of any instruction is lost or moved by encoding and decoding. -/
def Obligations.DecodeInvertsEncode : Prop := ∀ i : Instr, i.wellFormed = true → decode (encode i) = .ok i

/-- R80, R81, R82: the encoded word is the sum of its fields, each at its bit position. -/
def Obligations.EncodedFieldsStandAtTheirBits : Prop :=
  (∀ (k : Kind) (o : SubmitOperands), o.wellFormed = true →
    (encode (submitInstr k o)).toNat =
      1 + (match k with | .data => 0 | .pause => 1 | .filler => 2) * 2 ^ 5 + o.srcValid.toNat * 2 ^ 8 + o.len * 2 ^ 16 +
        o.pauseUnits * 2 ^ 48 + o.dst.toNat * 2 ^ 64 + o.src.toNat * 2 ^ 112) ∧
  (∀ (k : Kind) (o : RxOperands), o.wellFormed = true →
    (encode (rxInstr k o)).toNat =
      2 + (match k with | .data => 0 | .pause => 1 | .filler => 2) * 2 ^ 5 + o.err.toNat * 2 ^ 7 +
        o.srcValid.toNat * 2 ^ 8 + o.len * 2 ^ 16 + o.wireLen * 2 ^ 32 + o.pauseUnits * 2 ^ 48 + o.dst.toNat * 2 ^ 64 +
        o.src.toNat * 2 ^ 112) ∧
  (∀ d : Bool, (encode (.setAdmin d)).toNat = 6 + d.toNat * 2 ^ 4) ∧
  ([Instr.txEnd, .ifgEnd, .pauseEnd, .shutdown, .setup, .reset].map fun i => (encode i).toNat) = [3, 4, 5, 7, 8, 9]

/-- 95_test_vectors.md section 2.1: words written out by the spec decode to the events it names. -/
def Obligations.SampleWordsDecode : Prop :=
  decode 0x000000000000ffffffffffff00000000002e0001 = .ok (.submitData ⟨false, 0, 0xffffffffffff, 46, 0⟩) ∧
  decode 0x0000000000000180c20000010007000000000021 = .ok (.submitPause ⟨false, 0, 0x0180c2000001, 0, 7⟩) ∧
  decode 0x0041 = .ok (.submitFiller ⟨false, 0, 0, 0, 0⟩) ∧
  decode 0x0200000000020200000000010000004800400102 =
    .ok (.rxData ⟨false, true, 0x020000000002, 0x020000000001, 64, 72, 0⟩) ∧
  decode 0x0200000000020200000000010000004800400182 =
    .ok (.rxData ⟨true, true, 0x020000000002, 0x020000000001, 64, 72, 0⟩) ∧
  decode 0x0200000000020180c2000001000a004800400122 =
    .ok (.rxPause ⟨false, true, 0x020000000002, 0x0180c2000001, 64, 72, 10⟩) ∧
  decode 0x0200000000020200000000010000004800400142 =
    .ok (.rxFiller ⟨false, true, 0x020000000002, 0x020000000001, 64, 72, 0⟩) ∧
  decode 0x0003 = .ok .txEnd ∧ decode 0x0004 = .ok .ifgEnd ∧ decode 0x0005 = .ok .pauseEnd ∧
  decode 0x00f6 = .ok (.setAdmin true) ∧ decode 0x00e6 = .ok (.setAdmin false) ∧ decode 0x0087 = .ok .shutdown ∧
  decode 0x0008 = .ok .setup ∧ decode 0x0009 = .ok .reset

/-- R85: exactly the words the rule lists are invalid, and taking one only sets the refusal mark (and consumes what the
environment offered, which the model holds in fields of its own, log entry 8). -/
def Obligations.InvalidWordsAreRefused : Prop :=
  (∀ w : EventWord, (∃ e, decode w = .error e) ↔
    ((w.toNat % 16 = 0 ∨ 10 ≤ w.toNat % 16) ∨ w.toNat / 512 % 128 ≠ 0 ∨
      ((w.toNat % 16 = 1 ∨ w.toNat % 16 = 2) ∧ w.toNat / 32 % 4 = 3))) ∧
  ∀ (s : State) (a : Arrival) (rest : List Arrival) (e : Invalid), HeadFirst s a rest → decode a.word = .error e →
    step s = .next { handling s a rest with refused := true }

/-- R86: two words that agree on the fields their event code reads decode to events with the same effect in every state.
(L of an RX is carried by the decoder and read by no rule, R82.) -/
def Obligations.UnreadFieldsChangeNothing : Prop :=
  ∀ w v : EventWord, fieldEv w = fieldEv v → fieldRsv w = fieldRsv v →
    (fieldEv w = 1 → fieldK w = fieldK v ∧ fieldS w = fieldS v ∧ fieldL w = fieldL v ∧ fieldP w = fieldP v ∧
      fieldDst w = fieldDst v ∧ fieldSrc w = fieldSrc v) →
    (fieldEv w = 2 → fieldK w = fieldK v ∧ fieldE w = fieldE v ∧ fieldS w = fieldS v ∧ fieldW w = fieldW v ∧
      fieldP w = fieldP v ∧ fieldDst w = fieldDst v ∧ fieldSrc w = fieldSrc v) →
    (fieldEv w = 6 → fieldA w = fieldA v) →
    (∃ e, decode w = .error e ∧ decode v = .error e) ∨
      ∃ i j, decode w = .ok i ∧ decode v = .ok j ∧ ∀ s, exec i s = exec j s

/-- R37, R88: where the registers stand in the configuration record, where their fields stand in the registers, and which
bits are reserved. -/
def Obligations.ConfigFieldsStandAtTheirBits : Prop :=
  ∀ c : CfgRegs,
    CfgRegs.ofRecord c.toRecord = c ∧
    c.toRecord.toNat = c.cfgAddr.toNat + c.cfgMode.toNat * 2 ^ 64 + c.cfgLineRate.toNat * 2 ^ 128 +
      c.cfgMinFrame.toNat * 2 ^ 192 + c.cfgMaxFrame.toNat * 2 ^ 256 + c.cfgIfgBits.toNat * 2 ^ 320 +
      c.cfgPauseUnit.toNat * 2 ^ 384 + c.cfgQueueLimit.toNat * 2 ^ 448 ∧
    c.addressLiteral.toNat = c.cfgAddr.toNat % 2 ^ 48 ∧ c.addrAuto = decide (c.cfgMode.toNat % 2 = 1) ∧
    c.duplexMode = decide (c.cfgMode.toNat / 2 % 2 = 1) ∧
    (c.queueMode = .external ↔ c.cfgMode.toNat / 4 % 2 = 1) ∧
    (c.overflowPolicy = .reject ↔ c.cfgMode.toNat / 8 % 2 = 1) ∧ c.lineRate = c.cfgLineRate.toNat ∧
    c.minFrameBytes = c.cfgMinFrame.toNat % 2 ^ 16 ∧ c.maxFrameBytes = c.cfgMaxFrame.toNat % 2 ^ 16 ∧
    c.interFrameGapBits = c.cfgIfgBits.toNat % 2 ^ 32 ∧ c.pauseUnitBits = c.cfgPauseUnit.toNat % 2 ^ 32 ∧
    c.queueLimit = c.cfgQueueLimit.toNat % 2 ^ 32 ∧
    (c.reservedBitSet = true ↔
      2 ^ 48 ≤ c.cfgAddr.toNat ∨ 2 ^ 4 ≤ c.cfgMode.toNat ∨ 2 ^ 16 ≤ c.cfgMinFrame.toNat ∨
        2 ^ 16 ≤ c.cfgMaxFrame.toNat ∨ 2 ^ 32 ≤ c.cfgIfgBits.toNat ∨ 2 ^ 32 ≤ c.cfgPauseUnit.toNat ∨
        2 ^ 32 ≤ c.cfgQueueLimit.toNat)

/-- R90, R201: the output words, each field at its bit position, OUT_HALT with the fatal code in bits [15:9]. -/
def Obligations.OutputWordsCarryTheirFields : Prop :=
  ∀ f : Frame,
    let b := f.kind.code.toNat * 2 ^ 5 + f.err.toNat * 2 ^ 7 + f.srcValid.toNat * 2 ^ 8 + f.len.toNat * 2 ^ 16 +
      f.wireLen.toNat * 2 ^ 32 + f.pauseUnits.toNat * 2 ^ 48 + f.dst.toNat * 2 ^ 64 + f.src.toNat * 2 ^ 112
    (OutEvent.tx f).word.toNat = 1 + b ∧ (OutEvent.deliver f).word.toNat = 2 + b ∧ OutEvent.pull.word.toNat = 3 ∧
    OutEvent.txAbort.word.toNat = 4 ∧ (OutEvent.reject f).word.toNat = 6 + b ∧
    (∀ code, (OutEvent.halt code (.frame f)).word.toNat = 5 + code.code.toNat * 2 ^ 9 + b) ∧
    (∀ code c, (OutEvent.halt code (.record c)).word.toNat = 5 + code.code.toNat * 2 ^ 9) ∧
    (∀ code x, (OutEvent.halt code (.state x)).word.toNat = 5 + code.code.toNat * 2 ^ 9) ∧
    ([Fatal.cfgHalfDuplex, .cfgInvalid, .submitDestIsSelf, .submitOversize, .queueOverflow, .extSlotBusy,
      .txendBadState, .txendNoFrame, .ifgendBadState, .pauseendBadState, .startInvariant].map fun c => c.code.toNat) =
      [1, 2, 3, 4, 5, 6, 7, 8, 9, 10, 11]

/-! ## The step -/

/-- R66, R67, R211: an offered event earlier than every armed timer is the one taken, and the step is its meaning, run
on the state that holds what travels beside the word. -/
def Obligations.StepHandlesTheOfferedEvent : Prop :=
  ∀ (s : State) (a : Arrival) (rest : List Arrival) (i : Instr), HeadFirst s a rest → decode a.word = .ok i →
    step s = exec i (handling s a rest)

/-- R34, R89, R211: the earliest armed timer fires before a later event, as its own event stamped with its expiry. -/
def Obligations.StepFiresTheEarliestTimer : Prop :=
  ∀ (s : State) (T : Timer) (te : Time), TimerFirst s T te →
    step s = exec (match T with | .txEnd => .txEnd | .ifgEnd => .ifgEnd | .pauseEnd => .pauseEnd) (firingAt s te)

/-- R211: in RUN nothing with a stamp greater than an armed timer's expiry is taken. -/
def Obligations.NoEventPassesAnArmedTimer : Prop :=
  ∀ (s u : State) (x : Fetched) (T : Timer) (te : Time), s.phase = .run → s.timerAt T = some te → fetch s = (x, u) →
    x ≠ .nothing ∧ u.cur.stamp ≤ te

/-- R212: when the offered event and the only armed timer have one stamp, either may be taken first; both orders occur,
and whichever way the tie falls (the model's own mechanism, log entry 4), no third thing happens. -/
def Obligations.EqualStampsFallEitherWay : Prop :=
  ∀ (s : State) (a : Arrival) (rest : List Arrival) (i : Instr) (T : Timer), s.phase = .run →
    s.inbox = a :: rest → decode a.word = .ok i → s.timerAt T = some a.stamp →
    (∀ T', T' ≠ T → s.timerAt T' = none) →
    (∀ r, s.ties = 0 :: r → step s = exec i (handling { s with ties := r } a rest)) ∧
    (∀ r, s.ties = 1 :: r → step s = exec T.event (firingAt { s with ties := r } a.stamp)) ∧
    ∃ u : State, (step s = exec i (handling u a rest) ∨ step s = exec T.event (firingAt u a.stamp)) ∧
      { u with ties := s.ties, tieDraws := s.tieDraws } = s

/-! ## Refusals and time -/

/-- R46, R204, R213, R220, R87, R100, R150: every refused event changes nothing but the mark. (That a timer event in the
past is refused as well is the model's reading, log entry 10.) -/
def Obligations.RefusedEventsOnlySetTheMark : Prop :=
  ∀ (i : Instr) (s : State), RefusedEvent i s → exec i s = .next { s with refused := true }

/-- R213, R46: every other event sets `now` to its stamp, which is not in the past, and leaves the mark alone. -/
def Obligations.AcceptedEventsAdvanceTime : Prop :=
  ∀ (i : Instr) (s t : State), ¬ RefusedEvent i s → exec i s = .next t →
    t.now = s.cur.stamp ∧ s.now ≤ t.now ∧ t.refused = s.refused

/-- R46, R213: no step clears the refusal mark or moves time backwards. -/
def Obligations.MarkIsStickyAndTimeNeverDecreases : Prop :=
  ∀ s t : State, step s = .next t → s.now ≤ t.now ∧ (s.refused = true → t.refused = true)

/-- R204, R205: no event and no step stops the machine: refusals and fatal errors are states (log entry 7), and a step with
nothing to take answers the same state (log entry 5). -/
def Obligations.EveryEventHasANextState : Prop :=
  (∀ (i : Instr) (s : State), ∃ t, exec i s = .next t) ∧ ∀ s : State, ∃ t, step s = .next t

/-- R42, R66: a step only appends to the output trace, and stamps what it appends with its own time. -/
def Obligations.TraceOnlyGrows : Prop :=
  ∀ s t : State, step s = .next t → ∃ new, t.out = s.out ++ new ∧ ∀ r ∈ new, r.time = t.now

/-- R220: the life-cycle phases move only as the table says. -/
def Obligations.PhasesMoveOnlyAsTheTableSays : Prop :=
  ∀ (i : Instr) (s t : State), exec i s = .next t → t.phase ≠ s.phase →
    (i = .reset ∧ t.phase = .uninit) ∨ (i = .setup ∧ s.phase = .uninit ∧ (t.phase = .run ∨ t.phase = .halted)) ∨
    (i = .shutdown ∧ s.phase = .run ∧ t.phase = .stopped) ∨ (s.phase = .run ∧ t.phase = .halted)

/-! ## The halt -/

/-- R205: a fatal error leaves exactly the pre-event state with four writes. -/
def Obligations.HaltIsPrecise : Prop :=
  ∀ (i : Instr) (s t : State), exec i s = .next t → s.phase ≠ .halted → t.phase = .halted →
    ∃ code info, t = { s with now := s.cur.stamp, fault := some (code, info), phase := .halted,
                              out := s.out ++ [⟨s.cur.stamp, .halt code info⟩] }

/-- R191, R206, R187, R188, R207: in STOPPED and HALTED every event except RESET is refused, no timer fires, and RESET
leads to UNINIT with no fault, where every event except SETUP and RESET is refused. (That a step with nothing offered
and no timer that can fire answers the same state is the model's reading, log entry 5.) -/
def Obligations.OnlyResetLeavesHaltedAndStopped : Prop :=
  ∀ s : State, s.phase = .halted ∨ s.phase = .stopped →
    (∀ i : Instr, i ≠ .reset → exec i s = .next { s with refused := true }) ∧
    (s.inbox = [] → step s = .next s) ∧
    (s.now ≤ s.cur.stamp → ∃ t, exec .reset s = .next t ∧ t.phase = .uninit ∧ t.fault = none ∧
      (∀ r ∈ s.out, r ∈ t.out) ∧
      ∀ i : Instr, i ≠ .reset → i ≠ .setup → exec i t = .next { t with refused := true })

/-! ## Power-on, SETUP, RESET -/

/-- R240, R45: the power-on values the spec gives; and the invariant of R44 holds there. -/
def Obligations.PowerOnValues : Prop := PowerOn State.reset ∧ Clean State.reset ∧ Inv State.reset

/-- R180, R183, R184, R186, R45: a legal SETUP in UNINIT loads the record, takes the two draws and runs. (That it also
clears the counters, the receive time and the fault is the model's reading of R45's "after SETUP" column, log entry 12.) -/
def Obligations.LegalSetupStartsTheEngine : Prop :=
  ∀ s : State, s.phase = .uninit → s.now ≤ s.cur.stamp → Legal s.overheadBytes s.cur.record →
    exec .setup s = .next
      { s with phase := .run, txState := .idle, slot := none, queue := [], pendingPause := 0, connected := s.cur.conn,
               disabled := false, pullPending := decide (s.cur.record.queueMode = .external),
               address := if s.cur.record.addrAuto then s.cur.alloc else s.cur.record.addressLiteral,
               now := s.cur.stamp, tSetup := s.cur.stamp, txEndAt := none, ifgEndAt := none, pauseEndAt := none,
               lastTxFinishTime := none, fault := none, cfg := s.cur.record, counters := Counters.zero, rxOkTime := 0,
               out := if s.cur.record.queueMode = .external then s.out ++ [⟨s.cur.stamp, .pull⟩] else s.out }

/-- R182: the first check that fails is the one raised; duplex is the first, and everything else is CFG_INVALID. (Check 4
is written as a sum, the model's reading, log entry 20.) -/
def Obligations.SetupChecksInOrder : Prop :=
  ∀ s : State, s.phase = .uninit → s.now ≤ s.cur.stamp →
    let c := s.cur.record
    (c.duplexMode = false → exec .setup s = .next (s.halt .cfgHalfDuplex (.record c))) ∧
    (c.duplexMode = true →
      (c.reservedBitSet = true ∨ c.lineRate = 0 ∨ 65535 < c.maxFrameBytes + s.overheadBytes ∨
        c.maxFrameBytes < c.minFrameBytes ∨ (c.queueMode = .internal ∧ c.queueLimit = 0)) →
      exec .setup s = .next (s.halt .cfgInvalid (.record c))) ∧
    (c.duplexMode = true → c.reservedBitSet = false → 1 ≤ c.lineRate → c.maxFrameBytes + s.overheadBytes ≤ 65535 →
      c.minFrameBytes ≤ c.maxFrameBytes → (c.queueMode = .internal → 1 ≤ c.queueLimit) →
      ∃ t, exec .setup s = .next t ∧ t.phase = .run)

/-- R245: what the launch premise `Ready` gives. -/
def Obligations.ReadyStateIsQuietAndEmpty : Prop :=
  ∀ (c : CfgRegs) (t0 : Time) (conn : Bool) (alloc : Mac) (s : State), Ready c t0 conn alloc s →
    Clean s ∧ Quiet s ∧ s.pendingPause = 0 ∧ s.disabled = false ∧ s.counters = Counters.zero ∧ s.tSetup = t0 ∧
      s.connected = conn ∧ (s.pullPending = true ↔ c.queueMode = .external) ∧ RunInv s

/-- R187, R188, R242: RESET in any phase leaves the after-RESET values the spec gives, at its own stamp, keeping the
trace and the refusal mark, with OUT_TX_ABORT when it ends a transmission. -/
def Obligations.ResetReturnsToPowerOn : Prop :=
  ∀ s : State, s.now ≤ s.cur.stamp → ∃ t, exec .reset s = .next t ∧
    t.phase = .uninit ∧ t.txState = .idle ∧ t.slot = none ∧ t.queue = [] ∧ t.pendingPause = 0 ∧ t.pullPending = false ∧
    t.txEndAt = none ∧ t.ifgEndAt = none ∧ t.pauseEndAt = none ∧ t.lastTxFinishTime = none ∧ t.fault = none ∧
    t.counters = Counters.zero ∧ t.rxOkTime = 0 ∧ t.now = s.cur.stamp ∧ t.refused = s.refused ∧
    t.out = (if s.phase = .run ∧ s.txState = .transmitting then s.out ++ [⟨s.cur.stamp, .txAbort⟩] else s.out) ∧
    t.overheadBytes = s.overheadBytes ∧ t.inbox = s.inbox ∧ t.cur = s.cur ∧ t.ties = s.ties ∧ t.tieDraws = s.tieDraws

/-! ## SUBMIT and the queue arbiter -/

/-- R101: a frame to the station itself, then one over the maximum, halts the block, whatever the gate. -/
def Obligations.SubmitFatalChecks : Prop :=
  ∀ (k : Kind) (o : SubmitOperands) (s : State), k ≠ .filler → s.phase = .run → s.now ≤ s.cur.stamp →
    let f := frameOfSubmit k o s.cur.payload
    (o.dst = s.address →
      exec (submitInstr k o) s = .next
        { s with now := s.cur.stamp, fault := some (.submitDestIsSelf, .frame f), phase := .halted,
                 out := s.out ++ [⟨s.cur.stamp, .halt .submitDestIsSelf (.frame f)⟩] }) ∧
    (o.dst ≠ s.address → s.cfg.maxFrameBytes < o.len % 65536 →
      exec (submitInstr k o) s = .next
        { s with now := s.cur.stamp, fault := some (.submitOversize, .frame f), phase := .halted,
                 out := s.out ++ [⟨s.cur.stamp, .halt .submitOversize (.frame f)⟩] })

/-- R102, R103 (b): at the closed gate the frame is observed, dropped and counted; in EXTERNAL mode the pull is answered
and, with an empty slot, issued again. -/
def Obligations.SubmitIsDroppedAtTheClosedGate : Prop :=
  ∀ (k : Kind) (o : SubmitOperands) (s : State), k ≠ .filler → s.phase = .run → s.now ≤ s.cur.stamp →
    o.dst ≠ s.address → o.len % 65536 ≤ s.cfg.maxFrameBytes →
    (s.connected = false ∨ s.disabled = true) →
    let u : State :=
      { s with now := s.cur.stamp,
               counters := (s.counters.add .fromUpper 1).add
                 (if s.connected then .dropUpDisabled else .dropUpDisconn) 1 }
    exec (submitInstr k o) s = .next
      (match s.cfg.queueMode, s.slot with
        | .internal, _ => u
        | .external, some _ => { u with pullPending := false }
        | .external, none => { u with pullPending := true, out := s.out ++ [⟨s.cur.stamp, .pull⟩] })

/-- R100, R103, R104, R105, R106, R123, R124: with the gate open and nothing waiting, an idle engine puts the padded frame
on the wire in the same step. -/
def Obligations.SubmitWhenIdleTransmitsAtOnce : Prop :=
  ∀ (k : Kind) (o : SubmitOperands) (s : State), k ≠ .filler → s.phase = .run → s.now ≤ s.cur.stamp →
    o.dst ≠ s.address → o.len % 65536 ≤ s.cfg.maxFrameBytes →
    s.connected = true → s.disabled = false → s.txState = .idle → s.slot = none → s.queue = [] →
    (s.cfg.queueMode = .internal → 1 ≤ s.cfg.queueLimit) → 1 ≤ s.cfg.lineRate →
    let g := readyFrame k o s
    let d : Frame := { g with wireLen := BitVec.ofNat 16 (g.len.toNat + s.overheadBytes) }
    exec (submitInstr k o) s = .next
      { s with now := s.cur.stamp, counters := s.counters.add .fromUpper 1, slot := some g,
               pullPending := if s.cfg.queueMode = .external then false else s.pullPending,
               out := s.out ++ [⟨s.cur.stamp, .tx d⟩],
               txEndAt := some (s.cur.stamp + ((d.wireLen.toNat * 8 : Nat) : Rat) / (s.cfg.lineRate : Rat)),
               txState := .transmitting }

/-- R103, R104, R105, R106, R112: outside IDLE the frame waits: at the tail of the queue in INTERNAL mode, whose head goes to
an empty slot, or in the empty slot in EXTERNAL mode. -/
def Obligations.SubmitWhenBusyWaitsInOrder : Prop :=
  ∀ (k : Kind) (o : SubmitOperands) (s : State), k ≠ .filler → s.phase = .run → s.now ≤ s.cur.stamp →
    o.dst ≠ s.address → o.len % 65536 ≤ s.cfg.maxFrameBytes →
    s.connected = true → s.disabled = false → s.txState ≠ .idle →
    let g := readyFrame k o s
    let u : State := { s with now := s.cur.stamp, counters := s.counters.add .fromUpper 1 }
    (s.cfg.queueMode = .internal → s.queue.length < s.cfg.queueLimit →
      exec (submitInstr k o) s = .next
        (if s.slot = none then { u with slot := (s.queue ++ [g]).head?, queue := (s.queue ++ [g]).tail }
          else { u with queue := s.queue ++ [g] })) ∧
    (s.cfg.queueMode = .external → s.slot = none →
      exec (submitInstr k o) s = .next { u with slot := some g, pullPending := false })

/-- R104, R105, R248: with no room for the frame: in INTERNAL mode a full queue halts the block or rejects the frame, as
`overflowPolicy` says; in EXTERNAL mode an occupied slot halts it. (In IDLE no frame waits, R44 item 3, so a rejection
happens in another protocol state.) The frame named is the padded one (log entry 11). -/
def Obligations.SubmitWithNoRoom : Prop :=
  ∀ (k : Kind) (o : SubmitOperands) (s : State), k ≠ .filler → s.phase = .run → s.now ≤ s.cur.stamp →
    o.dst ≠ s.address → o.len % 65536 ≤ s.cfg.maxFrameBytes →
    s.connected = true → s.disabled = false →
    let g := readyFrame k o s
    (s.cfg.queueMode = .internal → s.cfg.queueLimit ≤ s.queue.length → s.cfg.overflowPolicy = .fatal →
      exec (submitInstr k o) s = .next
        { s with now := s.cur.stamp, fault := some (.queueOverflow, .frame g), phase := .halted,
                 out := s.out ++ [⟨s.cur.stamp, .halt .queueOverflow (.frame g)⟩] }) ∧
    (s.cfg.queueMode = .internal → s.cfg.queueLimit ≤ s.queue.length → s.cfg.overflowPolicy = .reject →
      s.txState ≠ .idle →
      exec (submitInstr k o) s = .next
        { s with now := s.cur.stamp, counters := (s.counters.add .fromUpper 1).add .dropQfull 1,
                 out := s.out ++ [⟨s.cur.stamp, .reject g⟩] }) ∧
    (s.cfg.queueMode = .external → s.slot ≠ none →
      exec (submitInstr k o) s = .next
        { s with now := s.cur.stamp, fault := some (.extSlotBusy, .frame g), phase := .halted,
                 out := s.out ++ [⟨s.cur.stamp, .halt .extSlotBusy (.frame g)⟩] })

/-- R87, R100, R204: SUBMIT of a FILLER frame is a valid word whose only effect, in every state, is the refusal mark. -/
def Obligations.SubmitOfFillerIsRefused : Prop :=
  ∀ (o : SubmitOperands) (s : State), exec (.submitFiller o) s = .next { s with refused := true }

/-- The frame of R100's "State written": what SUBMIT of a DATA or PAUSE frame leaves unchanged. -/
def Obligations.SubmitLeavesTheRest : Prop :=
  ∀ (k : Kind) (o : SubmitOperands) (s t : State), k ≠ .filler → exec (submitInstr k o) s = .next t →
    t.pendingPause = s.pendingPause ∧ t.connected = s.connected ∧ t.disabled = s.disabled ∧ t.address = s.address ∧
    t.tSetup = s.tSetup ∧ t.ifgEndAt = s.ifgEndAt ∧ t.pauseEndAt = s.pauseEndAt ∧
    t.lastTxFinishTime = s.lastTxFinishTime ∧ t.cfg = s.cfg ∧ t.overheadBytes = s.overheadBytes ∧
    t.rxOkTime = s.rxOkTime ∧ t.inbox = s.inbox ∧ t.cur = s.cur ∧ t.ties = s.ties ∧ t.tieDraws = s.tieDraws ∧
    (s.txState ≠ .idle → t.txState = s.txState ∧ t.txEndAt = s.txEndAt) ∧
    (t.phase ≠ s.phase → t.phase = .halted) ∧ (t.phase = s.phase → t.fault = s.fault) ∧
    ∀ c : Ctr, c ≠ .fromUpper → c ≠ .dropUpDisconn → c ≠ .dropUpDisabled → c ≠ .dropQfull →
      t.counters.get c = s.counters.get c

/-- R110: the four cases of `refill`. -/
def Obligations.RefillFollowsItsRule : Prop :=
  ∀ s : State,
    (s.slot ≠ none → refill s = s) ∧
    (s.slot = none → s.cfg.queueMode = .internal →
      refill s = { s with slot := s.queue.head?, queue := s.queue.tail }) ∧
    (s.slot = none → s.cfg.queueMode = .external → s.pullPending = true → refill s = s) ∧
    (s.slot = none → s.cfg.queueMode = .external → s.pullPending = false →
      refill s = { s with pullPending := true, out := s.out ++ [⟨s.now, .pull⟩] })

/-- R12, R40: `add C n` adds modulo 2^64 to the counter named and to no other. -/
def Obligations.CountersAddModuloTheirWidth : Prop :=
  ∀ (c : Counters) (k : Ctr) (n : Nat),
    ((c.add k n).get k).toNat = ((c.get k).toNat + n) % 2 ^ 64 ∧ ∀ j, j ≠ k → (c.add k n).get j = c.get j

/-! ## The transmission controller and its timers -/

/-- R126, R127, R131: the end of a transmission counts the frame, frees the slot, refills it, and starts the latched pause
or else the gap. -/
def Obligations.TransmissionEndFinalisesTheFrame : Prop :=
  ∀ (s : State) (f : Frame), Due .txEnd s → s.txState = .transmitting → s.slot = some f → 1 ≤ s.cfg.lineRate →
    let u : State :=
      { s with now := s.cur.stamp, txEndAt := none, lastTxFinishTime := some s.cur.stamp,
               counters := if f.kind = .pause
                 then (s.counters.add .txPause 1).add .txPauseUnits f.pauseUnits.toNat
                 else (s.counters.add .txFrames 1).add .txBytes f.len.toNat,
               slot := if s.cfg.queueMode = .internal then s.queue.head? else none,
               queue := if s.cfg.queueMode = .internal then s.queue.tail else s.queue,
               pullPending := decide (s.cfg.queueMode = .external) || s.pullPending,
               out := if s.cfg.queueMode = .external ∧ s.pullPending = false
                 then s.out ++ [⟨s.cur.stamp, .pull⟩] else s.out }
    exec .txEnd s = .next
      (if 1 ≤ s.pendingPause.toNat then
        { u with pendingPause := 0, txState := .paused,
                 pauseEndAt := some (s.cur.stamp +
                   ((s.pendingPause.toNat * s.cfg.pauseUnitBits : Nat) : Rat) / (s.cfg.lineRate : Rat)) }
      else
        { u with txState := .waitIfg,
                 ifgEndAt := some (s.cur.stamp + (s.cfg.interFrameGapBits : Rat) / (s.cfg.lineRate : Rat)) })

/-- R126, R128, R130: a timer that fires in a state that did not schedule it, and a transmission end with no frame, halt
the block with their own codes. -/
def Obligations.StrayTimersHalt : Prop :=
  ∀ s : State,
    (Due .txEnd s → s.txState ≠ .transmitting → exec .txEnd s = .next (s.halt .txendBadState (.state s.txState))) ∧
    (Due .txEnd s → s.txState = .transmitting → s.slot = none →
      exec .txEnd s = .next (s.halt .txendNoFrame (.state s.txState))) ∧
    (Due .ifgEnd s → s.txState ≠ .waitIfg → exec .ifgEnd s = .next (s.halt .ifgendBadState (.state s.txState))) ∧
    (Due .pauseEnd s → s.txState ≠ .paused →
      exec .pauseEnd s = .next (s.halt .pauseendBadState (.state s.txState)))

/-- R121, R123, R125, R128, R130: at the end of the gap or of the pause, with the gate open, the staged frame's duplicate
goes on the wire at once; with nothing staged the block settles in IDLE with no timer armed. -/
def Obligations.GapOrPauseEndStartsTheStagedFrame : Prop :=
  ∀ (s u : State) (i : Instr),
    (i = .ifgEnd ∧ Due .ifgEnd s ∧ s.txState = .waitIfg ∧ u = { s with now := s.cur.stamp, ifgEndAt := none }) ∨
    (i = .pauseEnd ∧ Due .pauseEnd s ∧ s.txState = .paused ∧ u = { s with now := s.cur.stamp, pauseEndAt := none }) →
    1 ≤ s.cfg.lineRate →
    (s.slot = none → exec i s = .next { u with txState := .idle }) ∧
    ∀ f, s.slot = some f → s.connected = true → s.disabled = false →
      let len := if f.len.toNat < s.cfg.minFrameBytes then BitVec.ofNat 16 s.cfg.minFrameBytes else f.len
      let d : Frame :=
        { f with src := if f.srcValid then f.src else s.address, srcValid := true, len := len, err := false,
                 wireLen := BitVec.ofNat 16 (len.toNat + s.overheadBytes) }
      exec i s = .next
        { u with txState := .transmitting, out := s.out ++ [⟨s.cur.stamp, .tx d⟩],
                 txEndAt := some (s.cur.stamp + ((d.wireLen.toNat * 8 : Nat) : Rat) / (s.cfg.lineRate : Rat)) }

/-- R121, R253 (a): at the end of the gap or of the pause, with the gate closed, every staged and queued frame is dropped and
counted once; in EXTERNAL mode the staged one, and the next is asked for unless a pull is pending. -/
def Obligations.GapOrPauseEndDropsWhenTheGateIsClosed : Prop :=
  ∀ (s u : State) (i : Instr) (f : Frame),
    (i = .ifgEnd ∧ Due .ifgEnd s ∧ s.txState = .waitIfg ∧ u = { s with now := s.cur.stamp, ifgEndAt := none }) ∨
    (i = .pauseEnd ∧ Due .pauseEnd s ∧ s.txState = .paused ∧ u = { s with now := s.cur.stamp, pauseEndAt := none }) →
    s.slot = some f → s.connected = false ∨ s.disabled = true →
    let c := if s.connected then Ctr.dropUpDisabled else Ctr.dropUpDisconn
    (s.cfg.queueMode = .internal →
      exec i s = .next { u with slot := none, queue := [], txState := .idle,
                                counters := s.counters.add c (s.queue.length + 1) }) ∧
    (s.cfg.queueMode = .external →
      exec i s = .next { u with slot := none, txState := .idle, counters := s.counters.add c 1, pullPending := true,
                                out := if s.pullPending then s.out else s.out ++ [⟨s.cur.stamp, .pull⟩] })

/-- The frame of the three timer events ("State written" of R126, R127, R128, R130). -/
def Obligations.TimerEventsLeaveTheRest : Prop :=
  ∀ (T : Timer) (s t : State), exec T.event s = .next t →
    t.connected = s.connected ∧ t.disabled = s.disabled ∧ t.address = s.address ∧ t.tSetup = s.tSetup ∧
    t.cfg = s.cfg ∧ t.overheadBytes = s.overheadBytes ∧ t.rxOkTime = s.rxOkTime ∧ t.inbox = s.inbox ∧ t.cur = s.cur ∧
    t.ties = s.ties ∧ t.tieDraws = s.tieDraws ∧
    (T ≠ .txEnd → t.lastTxFinishTime = s.lastTxFinishTime ∧ t.pendingPause = s.pendingPause) ∧
    (t.phase ≠ s.phase → t.phase = .halted) ∧ (t.phase = s.phase → t.fault = s.fault) ∧
    (∀ c : Ctr, c ∈ [Ctr.fromUpper, .rxOkFrames, .rxOkBytes, .rxPause, .rxPauseUnits, .dropRxDisconn, .dropRxDisabled,
      .dropBiterr, .dropQfull] → t.counters.get c = s.counters.get c) ∧
    (T ≠ .txEnd → ∀ c : Ctr, c ∈ [Ctr.txFrames, .txBytes, .txPause, .txPauseUnits] →
      t.counters.get c = s.counters.get c) ∧
    (T = .txEnd → t.counters.get .dropUpDisconn = s.counters.get .dropUpDisconn ∧
      t.counters.get .dropUpDisabled = s.counters.get .dropUpDisabled)

/-- R132: from a quiet, connected, enabled block with no pause latched, one offered DATA frame goes out at its stamp, ends
after its wire time, and is followed by exactly one gap and then IDLE. -/
def Obligations.RoundTripOfOneFrame : Prop :=
  ∀ (s : State) (a : Arrival) (o : SubmitOperands), Quiet s → RunInv s → s.inbox = [a] →
    decode a.word = .ok (.submitData o) → s.now ≤ a.stamp → s.connected = true → s.disabled = false →
    s.pendingPause = 0 → s.cfg.queueMode = .internal → o.dst ≠ s.address → o.len ≤ s.cfg.maxFrameBytes →
    let n := max o.len s.cfg.minFrameBytes
    let t1 := a.stamp + (((n + s.overheadBytes) * 8 : Nat) : Rat) / (s.cfg.lineRate : Rat)
    let t2 := t1 + (s.cfg.interFrameGapBits : Rat) / (s.cfg.lineRate : Rat)
    ∃ s1 s2 s3 d, step s = .next s1 ∧ step s1 = .next s2 ∧ step s2 = .next s3 ∧
      s1.out = s.out ++ [⟨a.stamp, .tx d⟩] ∧ d.wireLen.toNat = n + s.overheadBytes ∧ d.len.toNat = n ∧
      s1.txState = .transmitting ∧ s1.now = a.stamp ∧
      s2.txState = .waitIfg ∧ s2.now = t1 ∧ s3.txState = .idle ∧ s3.now = t2 ∧ s3.out = s1.out ∧ Quiet s3

/-! ## RX and pause flow control -/

/-- R151: an accepted FILLER frame is discarded with no counter, no output and no other state change. -/
def Obligations.FillerIsDiscarded : Prop :=
  ∀ (o : RxOperands) (s : State), s.phase = .run → s.now ≤ s.cur.stamp →
    exec (.rxFiller o) s = .next { s with now := s.cur.stamp }

/-- R152: an accepted DATA or PAUSE frame with its error flag set is dropped and counted once, whatever the gate. -/
def Obligations.BitErrorIsCountedOnce : Prop :=
  ∀ (o : RxOperands) (s : State), s.phase = .run → s.now ≤ s.cur.stamp → o.err = true →
    (s.overheadBytes ≤ o.wireLen → o.wireLen < 65536 →
      exec (.rxData o) s = .next { s with now := s.cur.stamp, counters := s.counters.add .dropBiterr 1 }) ∧
    exec (.rxPause o) s = .next { s with now := s.cur.stamp, counters := s.counters.add .dropBiterr 1 }

/-- R153: at the closed gate a DATA frame is dropped and counted, a PAUSE frame dropped uncounted and not obeyed. -/
def Obligations.ReceptionAtTheClosedGate : Prop :=
  ∀ (o : RxOperands) (s : State), s.phase = .run → s.now ≤ s.cur.stamp → o.err = false →
    s.connected = false ∨ s.disabled = true →
    (s.overheadBytes ≤ o.wireLen → o.wireLen < 65536 →
      exec (.rxData o) s = .next
        { s with now := s.cur.stamp,
                 counters := s.counters.add (if s.connected then .dropRxDisabled else .dropRxDisconn) 1 }) ∧
    exec (.rxPause o) s = .next { s with now := s.cur.stamp }

/-- R154, R83: the station's own address, the broadcast address and every group address pass the filter; any other frame
changes no counter and emits nothing. (The values of the broadcast address and of the group bit are the spec's general
knowledge G8, log entry 19.) -/
def Obligations.AddressFilter : Prop :=
  ∀ (s : State) (a : Mac),
    (addressedToUs s a = true ↔ a = s.address ∨ a.toNat = 2 ^ 48 - 1 ∨ a.toNat / 2 ^ 40 % 2 = 1) ∧
    ∀ o : RxOperands, o.dst = a → addressedToUs s a = false → s.phase = .run → s.now ≤ s.cur.stamp → o.err = false →
      s.connected = true → s.disabled = false →
      (s.overheadBytes ≤ o.wireLen → o.wireLen < 65536 → exec (.rxData o) s = .next { s with now := s.cur.stamp }) ∧
      exec (.rxPause o) s = .next { s with now := s.cur.stamp }

/-- R157, R158: a DATA frame that passes is stripped of the overhead, counted and delivered, whatever its size. -/
def Obligations.DataIsDelivered : Prop :=
  ∀ (o : RxOperands) (s : State), s.phase = .run → s.now ≤ s.cur.stamp → o.err = false → s.connected = true →
    s.disabled = false → addressedToUs s o.dst = true → s.overheadBytes ≤ o.wireLen → o.wireLen < 65536 →
    1 ≤ s.cfg.lineRate →
    let n := o.wireLen - s.overheadBytes
    exec (.rxData o) s = .next
      { s with now := s.cur.stamp, counters := (s.counters.add .rxOkFrames 1).add .rxOkBytes n,
               rxOkTime := s.rxOkTime + ((o.wireLen * 8 : Nat) : Rat) / (s.cfg.lineRate : Rat),
               out := s.out ++ [⟨s.cur.stamp, .deliver
                 { kind := .data, dst := o.dst, src := o.src, srcValid := o.srcValid, len := BitVec.ofNat 16 n,
                   wireLen := BitVec.ofNat 16 n, pauseUnits := BitVec.ofNat 16 o.pauseUnits, err := false,
                   payload := s.cur.payload }⟩] }

/-- R41: the utilisation ratio is the successful-receive time over the time since setup, the idle ratio is what is left of
one, and both are undefined while no time has passed since setup. R243: both are undefined too where the setup time has
no value, in UNINIT and in a block that SETUP itself halted (codes 1 and 2); that this reads as "undefined" is log
entry 32. -/
def Obligations.ReceiveRatiosFollowTheirRule : Prop :=
  ∀ s : State,
    (s.phase = .uninit → utilisation s = none ∧ idleRatio s = none) ∧
    (∀ code info, s.phase = .halted → s.fault = some (code, info) → code.code.toNat ≤ 2 →
      utilisation s = none ∧ idleRatio s = none) ∧
    (s.now = s.tSetup → utilisation s = none ∧ idleRatio s = none) ∧
    (s.phase = .run ∨ s.phase = .stopped ∨
        (s.phase = .halted ∧ ∃ code info, s.fault = some (code, info) ∧ 2 < code.code.toNat) →
      s.now ≠ s.tSetup → utilisation s = some (s.rxOkTime / (s.now - s.tSetup)) ∧
      idleRatio s = some (1 - s.rxOkTime / (s.now - s.tSetup)))

/-- R156, R160, R161, R162, R163: a PAUSE frame that passes is counted with its units and obeyed as the protocol state
says, and never forwarded upward. -/
def Obligations.PauseIsObeyed : Prop :=
  ∀ (o : RxOperands) (s : State), s.phase = .run → s.now ≤ s.cur.stamp → o.err = false → s.connected = true →
    s.disabled = false → addressedToUs s o.dst = true → o.pauseUnits < 65536 → 1 ≤ s.cfg.lineRate →
    let u : State := { s with now := s.cur.stamp, counters := (s.counters.add .rxPause 1).add .rxPauseUnits o.pauseUnits }
    let till := s.cur.stamp + ((o.pauseUnits * s.cfg.pauseUnitBits : Nat) : Rat) / (s.cfg.lineRate : Rat)
    exec (.rxPause o) s = .next
      (match s.txState with
        | .idle => if o.pauseUnits = 0 then u else { u with txState := .paused, pauseEndAt := some till }
        | .paused => { u with pauseEndAt := some till }
        | .transmitting => { u with pendingPause := BitVec.ofNat 16 o.pauseUnits }
        | .waitIfg => { u with pendingPause := BitVec.ofNat 16 o.pauseUnits })

/-- R159: RX of a DATA or FILLER frame, and of any PAUSE frame that is dropped, leaves the transmit state unchanged. -/
def Obligations.ReceptionLeavesTransmitState : Prop :=
  ∀ (k : Kind) (o : RxOperands) (s t : State),
    (k = .pause → o.err = true ∨ s.connected = false ∨ s.disabled = true ∨ addressedToUs s o.dst = false) →
    exec (rxInstr k o) s = .next t →
    t.txState = s.txState ∧ t.txEndAt = s.txEndAt ∧ t.ifgEndAt = s.ifgEndAt ∧ t.pauseEndAt = s.pauseEndAt ∧
    t.slot = s.slot ∧ t.queue = s.queue ∧ t.pendingPause = s.pendingPause

/-- The frame of RX ("State written" of R150), for every kind. -/
def Obligations.ReceptionLeavesTheRest : Prop :=
  ∀ (k : Kind) (o : RxOperands) (s t : State), exec (rxInstr k o) s = .next t →
    t.phase = s.phase ∧ t.slot = s.slot ∧ t.queue = s.queue ∧ t.connected = s.connected ∧ t.disabled = s.disabled ∧
    t.pullPending = s.pullPending ∧ t.address = s.address ∧ t.tSetup = s.tSetup ∧ t.txEndAt = s.txEndAt ∧
    t.ifgEndAt = s.ifgEndAt ∧ t.lastTxFinishTime = s.lastTxFinishTime ∧ t.fault = s.fault ∧ t.cfg = s.cfg ∧
    t.overheadBytes = s.overheadBytes ∧ t.inbox = s.inbox ∧ t.cur = s.cur ∧ t.ties = s.ties ∧
    t.tieDraws = s.tieDraws ∧ (k ≠ .data → t.out = s.out ∧ t.rxOkTime = s.rxOkTime) ∧
    ∀ c : Ctr, c ∈ [Ctr.fromUpper, .txFrames, .txBytes, .txPause, .txPauseUnits, .dropUpDisconn, .dropUpDisabled,
      .dropQfull] → t.counters.get c = s.counters.get c

/-! ## Host control -/

/-- R190: SHUTDOWN aborts a transmission in progress, discards timers, frames, latch and pull, and stops the block; the
counters, configuration, address, connectivity, disable flag and last finish time survive. -/
def Obligations.ShutdownStopsTheEngine : Prop :=
  ∀ s : State, s.phase = .run → s.now ≤ s.cur.stamp →
    exec .shutdown s = .next
      { s with now := s.cur.stamp, txEndAt := none, ifgEndAt := none, pauseEndAt := none, slot := none, queue := [],
               pendingPause := 0, pullPending := false, txState := .idle, phase := .stopped,
               out := if s.txState = .transmitting then s.out ++ [⟨s.cur.stamp, .txAbort⟩] else s.out }

/-- R193: SET_ADMIN writes the flag and nothing else, except that re-enabling in IDLE (where slot and queue are empty, R44
item 3) asks the external queue for a frame when no pull is pending. -/
def Obligations.SetAdminWritesTheFlag : Prop :=
  ∀ (d : Bool) (s : State), s.phase = .run → s.now ≤ s.cur.stamp →
    (s.txState = .idle → s.slot = none ∧ s.queue = []) →
    exec (.setAdmin d) s = .next
      (if s.disabled = true ∧ d = false ∧ s.txState = .idle ∧ s.cfg.queueMode = .external ∧ s.pullPending = false
        then { s with now := s.cur.stamp, disabled := d, pullPending := true,
                      out := s.out ++ [⟨s.cur.stamp, .pull⟩] }
        else { s with now := s.cur.stamp, disabled := d })

/-! ## The whole block -/

/-- R44: every step keeps the invariant of phase RUN. -/
def Obligations.StepKeepsTheInvariant : Prop := ∀ s t : State, Inv s → step s = .next t → Inv t

/-- R202: from a state that meets the invariant no step raises a fatal code from 7 to 11. -/
def Obligations.StrayTimerFatalsAreUnreachable : Prop :=
  ∀ s t : State, Inv s → step s = .next t → s.phase ≠ .halted → t.phase = .halted →
    ∃ code info, t.fault = some (code, info) ∧ code.code.toNat ≤ 6

/-- R44 item 2, R120: a step puts at most one frame on the wire, never from TRANSMITTING, and is then TRANSMITTING that
frame with the transmission-end timer armed. -/
def Obligations.AtMostOneFrameInFlight : Prop :=
  ∀ (s t : State) (new : List OutRecord), Inv s → step s = .next t → t.out = s.out ++ new →
    (∃ r ∈ new, r.event.isTx = true) →
      (new.filter fun r => r.event.isTx).length = 1 ∧ s.txState ≠ .transmitting ∧ t.phase = .run ∧
      t.txState = .transmitting ∧ t.slot ≠ none ∧ t.txEndAt ≠ none

/-- R113 (a), R123, R125: every frame that reaches the wire is within the size limits, has a source, no error flag and the
overhead in its wire length, and leaves only a connected, enabled block. -/
def Obligations.WireFramesAreWithinLimits : Prop :=
  ∀ (s t : State) (new : List OutRecord) (time : Time) (d : Frame), Inv s → step s = .next t → t.out = s.out ++ new →
    ⟨time, .tx d⟩ ∈ new →
    s.cfg.minFrameBytes ≤ d.len.toNat ∧ d.len.toNat ≤ s.cfg.maxFrameBytes ∧ d.srcValid = true ∧ d.err = false ∧
    d.kind ≠ .filler ∧ d.wireLen.toNat = d.len.toNat + s.overheadBytes ∧ s.connected = true

/-- R44 item 7, R102, R113 (c): a disconnected block never transmits, whatever it holds. -/
def Obligations.DisconnectedNeverTransmits : Prop :=
  ∀ (i : Instr) (s t : State) (new : List OutRecord), s.phase = .run → s.connected = false → exec i s = .next t →
    t.out = s.out ++ new → ∀ r ∈ new, r.event.isTx = false

/-- R112: strict FIFO. A step that begins and ends in RUN takes frames only from the front of those held and adds only at
the back: no frame overtakes another. -/
def Obligations.NoFrameOvertakesAnother : Prop :=
  ∀ s t : State, Inv s → step s = .next t → s.phase = .run → t.phase = .run →
    ∃ (k : Nat) (new : List Frame), heldFrames t = (heldFrames s).drop k ++ new ∧ new.length ≤ 1 ∧ (k = 0 ∨ new = [])

/-- R29, R71, R183: once set up, no step that does not reset the block changes the configuration, the address, the
connectivity or the setup time. -/
def Obligations.SetupValuesAreReadOnly : Prop :=
  ∀ s t : State, step s = .next t → s.phase ≠ .uninit → t.phase ≠ .uninit →
    t.cfg = s.cfg ∧ t.address = s.address ∧ t.connected = s.connected ∧ t.tSetup = s.tSetup

/-- R23, R122: the protocol state moves only along the rows of the transition table. -/
def Obligations.ProtocolStateFollowsTheTable : Prop :=
  ∀ (i : Instr) (s t : State), RunInv s → s.phase = .run → exec i s = .next t → t.phase = .run →
    t.txState ≠ s.txState →
    (s.txState = .idle ∧ t.txState = .transmitting ∧ ∃ k o, i = submitInstr k o) ∨
    (s.txState = .idle ∧ t.txState = .paused ∧ ∃ o, i = .rxPause o) ∨
    (s.txState = .transmitting ∧ (t.txState = .waitIfg ∨ t.txState = .paused) ∧ i = .txEnd) ∨
    (s.txState = .waitIfg ∧ (t.txState = .idle ∨ t.txState = .transmitting) ∧ i = .ifgEnd) ∨
    (s.txState = .paused ∧ (t.txState = .idle ∨ t.txState = .transmitting) ∧ i = .pauseEnd)

/-- R164 (a), (c): while PAUSED nothing but the pause timer's own event puts a frame on the wire or ends the pause within
RUN. -/
def Obligations.PauseBlocksTransmission : Prop :=
  ∀ (i : Instr) (s t : State) (new : List OutRecord), s.phase = .run → s.txState = .paused → i ≠ .pauseEnd →
    exec i s = .next t → t.out = s.out ++ new →
    (∀ r ∈ new, r.event.isTx = false) ∧ (t.phase = .run → t.txState = .paused)

/-- R255, R256: every run of finitely many offered events ends: within a number of steps bounded by what is offered and
held, nothing is left to take and no timer can fire. (R256 ends a run where no timer is armed; that a timer still armed
in HALTED, which cannot fire, does not keep the run going is the model's reading, log entry 21.) -/
def Obligations.EveryRunEnds : Prop :=
  ∀ s : State, Inv s → ∃ (n : Nat) (t : State),
    n ≤ 5 * s.inbox.length + 3 * (heldFrames s).length + 2 ∧ Host.Core.run Sys2Proof.core n s = .next t ∧ Ended t
end

