-- ==== Sys2Proof/Laws/Operands.lean ====
section
/-!
SUPPORT. Durations are the exact quotients of the spec and times add exactly; a named counter gains exactly what is added.
-/

namespace Sys2Proof.Machine

/-- The sum written for evaluation is the sum. -/
@[simp] theorem later_eq_add (t d : Time) : later t d = t + d := by
  unfold later
  rw [Rat.mkRat_eq_div]
  have ht := t.den_ne_zero
  have hd := d.den_ne_zero
  conv_rhs => rw [← Rat.num_div_den t, ← Rat.num_div_den d]
  push_cast
  field_simp

/-- A duration of `bits` bits is `bits / rate` seconds, exactly (R13). -/
theorem bitTime_eq_div (bits rate : Nat) (h : rate ≠ 0) : bitTime bits rate = (bits : Time) / (rate : Time) := by
  simp [bitTime, h, Rat.mkRat_eq_div]

/-- At a legal line rate no duration is negative. -/
theorem bitTime_nonneg (bits rate : Nat) (h : rate ≠ 0) : 0 ≤ bitTime bits rate := by
  rw [bitTime_eq_div bits rate h]
  positivity

theorem wireTime_nonneg (c : CfgRegs) (w : Half) (h : c.lineRate ≠ 0) : 0 ≤ c.wireTime w := bitTime_nonneg _ _ h
theorem gapTime_nonneg (c : CfgRegs) (h : c.lineRate ≠ 0) : 0 ≤ c.gapTime := bitTime_nonneg _ _ h
theorem pauseTime_nonneg (c : CfgRegs) (u : Half) (h : c.lineRate ≠ 0) : 0 ≤ c.pauseTime u := bitTime_nonneg _ _ h

/-! ## Counters -/

@[simp] theorem Counters.get_add_self (c : Counters) (k : Ctr) (n : Nat) :
    (c.add k n).get k = c.get k + BitVec.ofNat 64 n := by cases k <;> rfl

theorem Counters.get_add_other (c : Counters) (k j : Ctr) (n : Nat) (h : j ≠ k) : (c.add k n).get j = c.get j := by
  cases k <;> cases j <;> first | rfl | exact absurd rfl h

/-- Adding twice to one counter is adding the sum. -/
@[simp] theorem Counters.add_add (c : Counters) (k : Ctr) (m n : Nat) : (c.add k m).add k n = c.add k (m + n) := by
  cases k <;> simp [Counters.add, BitVec.add_assoc, BitVec.ofNat_add]

/-! ## Lengths -/

/-- A minimum or maximum frame length fits a 16-bit field. -/
theorem CfgRegs.minFrameBytes_lt (c : CfgRegs) : c.minFrameBytes < 65536 := (c.cfgMinFrame.extractLsb' 0 16).isLt

end Sys2Proof.Machine
end

