-- ==== Sys2Proof/Laws/State.lean ====
section
/-!
SUPPORT. One lemma per field per named update of the state: later proofs cite these and unfold no record update.
-/

namespace Sys2Proof.Machine

/-- `count` is `add` of one (R12). -/
@[simp] theorem State.count_eq (s : State) (k : Ctr) : s.count k = s.addTo k 1 := rfl

/-! ## addTo -/

@[simp] theorem State.addTo_phase (s : State) (k : Ctr) (n : Nat) : (s.addTo k n).phase = s.phase := rfl
@[simp] theorem State.addTo_txState (s : State) (k : Ctr) (n : Nat) : (s.addTo k n).txState = s.txState := rfl
@[simp] theorem State.addTo_slot (s : State) (k : Ctr) (n : Nat) : (s.addTo k n).slot = s.slot := rfl
@[simp] theorem State.addTo_queue (s : State) (k : Ctr) (n : Nat) : (s.addTo k n).queue = s.queue := rfl
@[simp] theorem State.addTo_pendingPause (s : State) (k : Ctr) (n : Nat) : (s.addTo k n).pendingPause = s.pendingPause := rfl
@[simp] theorem State.addTo_connected (s : State) (k : Ctr) (n : Nat) : (s.addTo k n).connected = s.connected := rfl
@[simp] theorem State.addTo_disabled (s : State) (k : Ctr) (n : Nat) : (s.addTo k n).disabled = s.disabled := rfl
@[simp] theorem State.addTo_pullPending (s : State) (k : Ctr) (n : Nat) : (s.addTo k n).pullPending = s.pullPending := rfl
@[simp] theorem State.addTo_address (s : State) (k : Ctr) (n : Nat) : (s.addTo k n).address = s.address := rfl
@[simp] theorem State.addTo_now (s : State) (k : Ctr) (n : Nat) : (s.addTo k n).now = s.now := rfl
@[simp] theorem State.addTo_tSetup (s : State) (k : Ctr) (n : Nat) : (s.addTo k n).tSetup = s.tSetup := rfl
@[simp] theorem State.addTo_txEndAt (s : State) (k : Ctr) (n : Nat) : (s.addTo k n).txEndAt = s.txEndAt := rfl
@[simp] theorem State.addTo_ifgEndAt (s : State) (k : Ctr) (n : Nat) : (s.addTo k n).ifgEndAt = s.ifgEndAt := rfl
@[simp] theorem State.addTo_pauseEndAt (s : State) (k : Ctr) (n : Nat) : (s.addTo k n).pauseEndAt = s.pauseEndAt := rfl
@[simp] theorem State.addTo_lastTxFinishTime (s : State) (k : Ctr) (n : Nat) : (s.addTo k n).lastTxFinishTime = s.lastTxFinishTime := rfl
@[simp] theorem State.addTo_fault (s : State) (k : Ctr) (n : Nat) : (s.addTo k n).fault = s.fault := rfl
@[simp] theorem State.addTo_cfg (s : State) (k : Ctr) (n : Nat) : (s.addTo k n).cfg = s.cfg := rfl
@[simp] theorem State.addTo_overheadBytes (s : State) (k : Ctr) (n : Nat) : (s.addTo k n).overheadBytes = s.overheadBytes := rfl
@[simp] theorem State.addTo_counters (s : State) (k : Ctr) (n : Nat) : (s.addTo k n).counters = s.counters.add k n := rfl
@[simp] theorem State.addTo_rxOkTime (s : State) (k : Ctr) (n : Nat) : (s.addTo k n).rxOkTime = s.rxOkTime := rfl
@[simp] theorem State.addTo_out (s : State) (k : Ctr) (n : Nat) : (s.addTo k n).out = s.out := rfl
@[simp] theorem State.addTo_refused (s : State) (k : Ctr) (n : Nat) : (s.addTo k n).refused = s.refused := rfl
@[simp] theorem State.addTo_inbox (s : State) (k : Ctr) (n : Nat) : (s.addTo k n).inbox = s.inbox := rfl
@[simp] theorem State.addTo_cur (s : State) (k : Ctr) (n : Nat) : (s.addTo k n).cur = s.cur := rfl
@[simp] theorem State.addTo_ties (s : State) (k : Ctr) (n : Nat) : (s.addTo k n).ties = s.ties := rfl
@[simp] theorem State.addTo_tieDraws (s : State) (k : Ctr) (n : Nat) : (s.addTo k n).tieDraws = s.tieDraws := rfl

/-! ## emit -/

@[simp] theorem State.emit_phase (s : State) (e : OutEvent) : (s.emit e).phase = s.phase := rfl
@[simp] theorem State.emit_txState (s : State) (e : OutEvent) : (s.emit e).txState = s.txState := rfl
@[simp] theorem State.emit_slot (s : State) (e : OutEvent) : (s.emit e).slot = s.slot := rfl
@[simp] theorem State.emit_queue (s : State) (e : OutEvent) : (s.emit e).queue = s.queue := rfl
@[simp] theorem State.emit_pendingPause (s : State) (e : OutEvent) : (s.emit e).pendingPause = s.pendingPause := rfl
@[simp] theorem State.emit_connected (s : State) (e : OutEvent) : (s.emit e).connected = s.connected := rfl
@[simp] theorem State.emit_disabled (s : State) (e : OutEvent) : (s.emit e).disabled = s.disabled := rfl
@[simp] theorem State.emit_pullPending (s : State) (e : OutEvent) : (s.emit e).pullPending = s.pullPending := rfl
@[simp] theorem State.emit_address (s : State) (e : OutEvent) : (s.emit e).address = s.address := rfl
@[simp] theorem State.emit_now (s : State) (e : OutEvent) : (s.emit e).now = s.now := rfl
@[simp] theorem State.emit_tSetup (s : State) (e : OutEvent) : (s.emit e).tSetup = s.tSetup := rfl
@[simp] theorem State.emit_txEndAt (s : State) (e : OutEvent) : (s.emit e).txEndAt = s.txEndAt := rfl
@[simp] theorem State.emit_ifgEndAt (s : State) (e : OutEvent) : (s.emit e).ifgEndAt = s.ifgEndAt := rfl
@[simp] theorem State.emit_pauseEndAt (s : State) (e : OutEvent) : (s.emit e).pauseEndAt = s.pauseEndAt := rfl
@[simp] theorem State.emit_lastTxFinishTime (s : State) (e : OutEvent) : (s.emit e).lastTxFinishTime = s.lastTxFinishTime := rfl
@[simp] theorem State.emit_fault (s : State) (e : OutEvent) : (s.emit e).fault = s.fault := rfl
@[simp] theorem State.emit_cfg (s : State) (e : OutEvent) : (s.emit e).cfg = s.cfg := rfl
@[simp] theorem State.emit_overheadBytes (s : State) (e : OutEvent) : (s.emit e).overheadBytes = s.overheadBytes := rfl
@[simp] theorem State.emit_counters (s : State) (e : OutEvent) : (s.emit e).counters = s.counters := rfl
@[simp] theorem State.emit_rxOkTime (s : State) (e : OutEvent) : (s.emit e).rxOkTime = s.rxOkTime := rfl
@[simp] theorem State.emit_out (s : State) (e : OutEvent) : (s.emit e).out = s.out ++ [⟨s.now, e⟩] := rfl
@[simp] theorem State.emit_refused (s : State) (e : OutEvent) : (s.emit e).refused = s.refused := rfl
@[simp] theorem State.emit_inbox (s : State) (e : OutEvent) : (s.emit e).inbox = s.inbox := rfl
@[simp] theorem State.emit_cur (s : State) (e : OutEvent) : (s.emit e).cur = s.cur := rfl
@[simp] theorem State.emit_ties (s : State) (e : OutEvent) : (s.emit e).ties = s.ties := rfl
@[simp] theorem State.emit_tieDraws (s : State) (e : OutEvent) : (s.emit e).tieDraws = s.tieDraws := rfl

/-! ## arrive -/

@[simp] theorem State.arrive_phase (s : State) : (s.arrive).phase = s.phase := rfl
@[simp] theorem State.arrive_txState (s : State) : (s.arrive).txState = s.txState := rfl
@[simp] theorem State.arrive_slot (s : State) : (s.arrive).slot = s.slot := rfl
@[simp] theorem State.arrive_queue (s : State) : (s.arrive).queue = s.queue := rfl
@[simp] theorem State.arrive_pendingPause (s : State) : (s.arrive).pendingPause = s.pendingPause := rfl
@[simp] theorem State.arrive_connected (s : State) : (s.arrive).connected = s.connected := rfl
@[simp] theorem State.arrive_disabled (s : State) : (s.arrive).disabled = s.disabled := rfl
@[simp] theorem State.arrive_pullPending (s : State) : (s.arrive).pullPending = s.pullPending := rfl
@[simp] theorem State.arrive_address (s : State) : (s.arrive).address = s.address := rfl
@[simp] theorem State.arrive_now (s : State) : (s.arrive).now = s.cur.stamp := rfl
@[simp] theorem State.arrive_tSetup (s : State) : (s.arrive).tSetup = s.tSetup := rfl
@[simp] theorem State.arrive_txEndAt (s : State) : (s.arrive).txEndAt = s.txEndAt := rfl
@[simp] theorem State.arrive_ifgEndAt (s : State) : (s.arrive).ifgEndAt = s.ifgEndAt := rfl
@[simp] theorem State.arrive_pauseEndAt (s : State) : (s.arrive).pauseEndAt = s.pauseEndAt := rfl
@[simp] theorem State.arrive_lastTxFinishTime (s : State) : (s.arrive).lastTxFinishTime = s.lastTxFinishTime := rfl
@[simp] theorem State.arrive_fault (s : State) : (s.arrive).fault = s.fault := rfl
@[simp] theorem State.arrive_cfg (s : State) : (s.arrive).cfg = s.cfg := rfl
@[simp] theorem State.arrive_overheadBytes (s : State) : (s.arrive).overheadBytes = s.overheadBytes := rfl
@[simp] theorem State.arrive_counters (s : State) : (s.arrive).counters = s.counters := rfl
@[simp] theorem State.arrive_rxOkTime (s : State) : (s.arrive).rxOkTime = s.rxOkTime := rfl
@[simp] theorem State.arrive_out (s : State) : (s.arrive).out = s.out := rfl
@[simp] theorem State.arrive_refused (s : State) : (s.arrive).refused = s.refused := rfl
@[simp] theorem State.arrive_inbox (s : State) : (s.arrive).inbox = s.inbox := rfl
@[simp] theorem State.arrive_cur (s : State) : (s.arrive).cur = s.cur := rfl
@[simp] theorem State.arrive_ties (s : State) : (s.arrive).ties = s.ties := rfl
@[simp] theorem State.arrive_tieDraws (s : State) : (s.arrive).tieDraws = s.tieDraws := rfl

/-! ## refuse -/

@[simp] theorem State.refuse_phase (s : State) : (s.refuse).phase = s.phase := rfl
@[simp] theorem State.refuse_txState (s : State) : (s.refuse).txState = s.txState := rfl
@[simp] theorem State.refuse_slot (s : State) : (s.refuse).slot = s.slot := rfl
@[simp] theorem State.refuse_queue (s : State) : (s.refuse).queue = s.queue := rfl
@[simp] theorem State.refuse_pendingPause (s : State) : (s.refuse).pendingPause = s.pendingPause := rfl
@[simp] theorem State.refuse_connected (s : State) : (s.refuse).connected = s.connected := rfl
@[simp] theorem State.refuse_disabled (s : State) : (s.refuse).disabled = s.disabled := rfl
@[simp] theorem State.refuse_pullPending (s : State) : (s.refuse).pullPending = s.pullPending := rfl
@[simp] theorem State.refuse_address (s : State) : (s.refuse).address = s.address := rfl
@[simp] theorem State.refuse_now (s : State) : (s.refuse).now = s.now := rfl
@[simp] theorem State.refuse_tSetup (s : State) : (s.refuse).tSetup = s.tSetup := rfl
@[simp] theorem State.refuse_txEndAt (s : State) : (s.refuse).txEndAt = s.txEndAt := rfl
@[simp] theorem State.refuse_ifgEndAt (s : State) : (s.refuse).ifgEndAt = s.ifgEndAt := rfl
@[simp] theorem State.refuse_pauseEndAt (s : State) : (s.refuse).pauseEndAt = s.pauseEndAt := rfl
@[simp] theorem State.refuse_lastTxFinishTime (s : State) : (s.refuse).lastTxFinishTime = s.lastTxFinishTime := rfl
@[simp] theorem State.refuse_fault (s : State) : (s.refuse).fault = s.fault := rfl
@[simp] theorem State.refuse_cfg (s : State) : (s.refuse).cfg = s.cfg := rfl
@[simp] theorem State.refuse_overheadBytes (s : State) : (s.refuse).overheadBytes = s.overheadBytes := rfl
@[simp] theorem State.refuse_counters (s : State) : (s.refuse).counters = s.counters := rfl
@[simp] theorem State.refuse_rxOkTime (s : State) : (s.refuse).rxOkTime = s.rxOkTime := rfl
@[simp] theorem State.refuse_out (s : State) : (s.refuse).out = s.out := rfl
@[simp] theorem State.refuse_refused (s : State) : (s.refuse).refused = true := rfl
@[simp] theorem State.refuse_inbox (s : State) : (s.refuse).inbox = s.inbox := rfl
@[simp] theorem State.refuse_cur (s : State) : (s.refuse).cur = s.cur := rfl
@[simp] theorem State.refuse_ties (s : State) : (s.refuse).ties = s.ties := rfl
@[simp] theorem State.refuse_tieDraws (s : State) : (s.refuse).tieDraws = s.tieDraws := rfl

/-! ## halt -/

@[simp] theorem State.halt_phase (s : State) (code : Fatal) (info : FaultInfo) : (s.halt code info).phase = .halted := rfl
@[simp] theorem State.halt_txState (s : State) (code : Fatal) (info : FaultInfo) : (s.halt code info).txState = s.txState := rfl
@[simp] theorem State.halt_slot (s : State) (code : Fatal) (info : FaultInfo) : (s.halt code info).slot = s.slot := rfl
@[simp] theorem State.halt_queue (s : State) (code : Fatal) (info : FaultInfo) : (s.halt code info).queue = s.queue := rfl
@[simp] theorem State.halt_pendingPause (s : State) (code : Fatal) (info : FaultInfo) : (s.halt code info).pendingPause = s.pendingPause := rfl
@[simp] theorem State.halt_connected (s : State) (code : Fatal) (info : FaultInfo) : (s.halt code info).connected = s.connected := rfl
@[simp] theorem State.halt_disabled (s : State) (code : Fatal) (info : FaultInfo) : (s.halt code info).disabled = s.disabled := rfl
@[simp] theorem State.halt_pullPending (s : State) (code : Fatal) (info : FaultInfo) : (s.halt code info).pullPending = s.pullPending := rfl
@[simp] theorem State.halt_address (s : State) (code : Fatal) (info : FaultInfo) : (s.halt code info).address = s.address := rfl
@[simp] theorem State.halt_now (s : State) (code : Fatal) (info : FaultInfo) : (s.halt code info).now = s.cur.stamp := rfl
@[simp] theorem State.halt_tSetup (s : State) (code : Fatal) (info : FaultInfo) : (s.halt code info).tSetup = s.tSetup := rfl
@[simp] theorem State.halt_txEndAt (s : State) (code : Fatal) (info : FaultInfo) : (s.halt code info).txEndAt = s.txEndAt := rfl
@[simp] theorem State.halt_ifgEndAt (s : State) (code : Fatal) (info : FaultInfo) : (s.halt code info).ifgEndAt = s.ifgEndAt := rfl
@[simp] theorem State.halt_pauseEndAt (s : State) (code : Fatal) (info : FaultInfo) : (s.halt code info).pauseEndAt = s.pauseEndAt := rfl
@[simp] theorem State.halt_lastTxFinishTime (s : State) (code : Fatal) (info : FaultInfo) : (s.halt code info).lastTxFinishTime = s.lastTxFinishTime := rfl
@[simp] theorem State.halt_fault (s : State) (code : Fatal) (info : FaultInfo) : (s.halt code info).fault = some (code, info) := rfl
@[simp] theorem State.halt_cfg (s : State) (code : Fatal) (info : FaultInfo) : (s.halt code info).cfg = s.cfg := rfl
@[simp] theorem State.halt_overheadBytes (s : State) (code : Fatal) (info : FaultInfo) : (s.halt code info).overheadBytes = s.overheadBytes := rfl
@[simp] theorem State.halt_counters (s : State) (code : Fatal) (info : FaultInfo) : (s.halt code info).counters = s.counters := rfl
@[simp] theorem State.halt_rxOkTime (s : State) (code : Fatal) (info : FaultInfo) : (s.halt code info).rxOkTime = s.rxOkTime := rfl
@[simp] theorem State.halt_out (s : State) (code : Fatal) (info : FaultInfo) : (s.halt code info).out = s.out ++ [⟨s.cur.stamp, .halt code info⟩] := rfl
@[simp] theorem State.halt_refused (s : State) (code : Fatal) (info : FaultInfo) : (s.halt code info).refused = s.refused := rfl
@[simp] theorem State.halt_inbox (s : State) (code : Fatal) (info : FaultInfo) : (s.halt code info).inbox = s.inbox := rfl
@[simp] theorem State.halt_cur (s : State) (code : Fatal) (info : FaultInfo) : (s.halt code info).cur = s.cur := rfl
@[simp] theorem State.halt_ties (s : State) (code : Fatal) (info : FaultInfo) : (s.halt code info).ties = s.ties := rfl
@[simp] theorem State.halt_tieDraws (s : State) (code : Fatal) (info : FaultInfo) : (s.halt code info).tieDraws = s.tieDraws := rfl

/-! ## qpush -/

@[simp] theorem State.qpush_phase (s : State) (f : Frame) : (s.qpush f).phase = s.phase := rfl
@[simp] theorem State.qpush_txState (s : State) (f : Frame) : (s.qpush f).txState = s.txState := rfl
@[simp] theorem State.qpush_slot (s : State) (f : Frame) : (s.qpush f).slot = s.slot := rfl
@[simp] theorem State.qpush_queue (s : State) (f : Frame) : (s.qpush f).queue = s.queue ++ [f] := rfl
@[simp] theorem State.qpush_pendingPause (s : State) (f : Frame) : (s.qpush f).pendingPause = s.pendingPause := rfl
@[simp] theorem State.qpush_connected (s : State) (f : Frame) : (s.qpush f).connected = s.connected := rfl
@[simp] theorem State.qpush_disabled (s : State) (f : Frame) : (s.qpush f).disabled = s.disabled := rfl
@[simp] theorem State.qpush_pullPending (s : State) (f : Frame) : (s.qpush f).pullPending = s.pullPending := rfl
@[simp] theorem State.qpush_address (s : State) (f : Frame) : (s.qpush f).address = s.address := rfl
@[simp] theorem State.qpush_now (s : State) (f : Frame) : (s.qpush f).now = s.now := rfl
@[simp] theorem State.qpush_tSetup (s : State) (f : Frame) : (s.qpush f).tSetup = s.tSetup := rfl
@[simp] theorem State.qpush_txEndAt (s : State) (f : Frame) : (s.qpush f).txEndAt = s.txEndAt := rfl
@[simp] theorem State.qpush_ifgEndAt (s : State) (f : Frame) : (s.qpush f).ifgEndAt = s.ifgEndAt := rfl
@[simp] theorem State.qpush_pauseEndAt (s : State) (f : Frame) : (s.qpush f).pauseEndAt = s.pauseEndAt := rfl
@[simp] theorem State.qpush_lastTxFinishTime (s : State) (f : Frame) : (s.qpush f).lastTxFinishTime = s.lastTxFinishTime := rfl
@[simp] theorem State.qpush_fault (s : State) (f : Frame) : (s.qpush f).fault = s.fault := rfl
@[simp] theorem State.qpush_cfg (s : State) (f : Frame) : (s.qpush f).cfg = s.cfg := rfl
@[simp] theorem State.qpush_overheadBytes (s : State) (f : Frame) : (s.qpush f).overheadBytes = s.overheadBytes := rfl
@[simp] theorem State.qpush_counters (s : State) (f : Frame) : (s.qpush f).counters = s.counters := rfl
@[simp] theorem State.qpush_rxOkTime (s : State) (f : Frame) : (s.qpush f).rxOkTime = s.rxOkTime := rfl
@[simp] theorem State.qpush_out (s : State) (f : Frame) : (s.qpush f).out = s.out := rfl
@[simp] theorem State.qpush_refused (s : State) (f : Frame) : (s.qpush f).refused = s.refused := rfl
@[simp] theorem State.qpush_inbox (s : State) (f : Frame) : (s.qpush f).inbox = s.inbox := rfl
@[simp] theorem State.qpush_cur (s : State) (f : Frame) : (s.qpush f).cur = s.cur := rfl
@[simp] theorem State.qpush_ties (s : State) (f : Frame) : (s.qpush f).ties = s.ties := rfl
@[simp] theorem State.qpush_tieDraws (s : State) (f : Frame) : (s.qpush f).tieDraws = s.tieDraws := rfl

/-! ## afterReset -/

@[simp] theorem State.afterReset_phase (s : State) : (s.afterReset).phase = .uninit := rfl
@[simp] theorem State.afterReset_txState (s : State) : (s.afterReset).txState = .idle := rfl
@[simp] theorem State.afterReset_slot (s : State) : (s.afterReset).slot = none := rfl
@[simp] theorem State.afterReset_queue (s : State) : (s.afterReset).queue = [] := rfl
@[simp] theorem State.afterReset_pendingPause (s : State) : (s.afterReset).pendingPause = 0 := rfl
@[simp] theorem State.afterReset_connected (s : State) : (s.afterReset).connected = false := rfl
@[simp] theorem State.afterReset_disabled (s : State) : (s.afterReset).disabled = false := rfl
@[simp] theorem State.afterReset_pullPending (s : State) : (s.afterReset).pullPending = false := rfl
@[simp] theorem State.afterReset_address (s : State) : (s.afterReset).address = 0 := rfl
@[simp] theorem State.afterReset_now (s : State) : (s.afterReset).now = s.now := rfl
@[simp] theorem State.afterReset_tSetup (s : State) : (s.afterReset).tSetup = 0 := rfl
@[simp] theorem State.afterReset_txEndAt (s : State) : (s.afterReset).txEndAt = none := rfl
@[simp] theorem State.afterReset_ifgEndAt (s : State) : (s.afterReset).ifgEndAt = none := rfl
@[simp] theorem State.afterReset_pauseEndAt (s : State) : (s.afterReset).pauseEndAt = none := rfl
@[simp] theorem State.afterReset_lastTxFinishTime (s : State) : (s.afterReset).lastTxFinishTime = none := rfl
@[simp] theorem State.afterReset_fault (s : State) : (s.afterReset).fault = none := rfl
@[simp] theorem State.afterReset_cfg (s : State) : (s.afterReset).cfg = CfgRegs.zero := rfl
@[simp] theorem State.afterReset_overheadBytes (s : State) : (s.afterReset).overheadBytes = s.overheadBytes := rfl
@[simp] theorem State.afterReset_counters (s : State) : (s.afterReset).counters = Counters.zero := rfl
@[simp] theorem State.afterReset_rxOkTime (s : State) : (s.afterReset).rxOkTime = 0 := rfl
@[simp] theorem State.afterReset_out (s : State) : (s.afterReset).out = s.out := rfl
@[simp] theorem State.afterReset_refused (s : State) : (s.afterReset).refused = s.refused := rfl
@[simp] theorem State.afterReset_inbox (s : State) : (s.afterReset).inbox = s.inbox := rfl
@[simp] theorem State.afterReset_cur (s : State) : (s.afterReset).cur = s.cur := rfl
@[simp] theorem State.afterReset_ties (s : State) : (s.afterReset).ties = s.ties := rfl
@[simp] theorem State.afterReset_tieDraws (s : State) : (s.afterReset).tieDraws = s.tieDraws := rfl

/-! ## arm -/

@[simp] theorem State.arm_phase (s : State) (T : Timer) (t : Time) : (s.arm T t).phase = s.phase := by cases T <;> rfl
@[simp] theorem State.arm_txState (s : State) (T : Timer) (t : Time) : (s.arm T t).txState = s.txState := by cases T <;> rfl
@[simp] theorem State.arm_slot (s : State) (T : Timer) (t : Time) : (s.arm T t).slot = s.slot := by cases T <;> rfl
@[simp] theorem State.arm_queue (s : State) (T : Timer) (t : Time) : (s.arm T t).queue = s.queue := by cases T <;> rfl
@[simp] theorem State.arm_pendingPause (s : State) (T : Timer) (t : Time) : (s.arm T t).pendingPause = s.pendingPause := by cases T <;> rfl
@[simp] theorem State.arm_connected (s : State) (T : Timer) (t : Time) : (s.arm T t).connected = s.connected := by cases T <;> rfl
@[simp] theorem State.arm_disabled (s : State) (T : Timer) (t : Time) : (s.arm T t).disabled = s.disabled := by cases T <;> rfl
@[simp] theorem State.arm_pullPending (s : State) (T : Timer) (t : Time) : (s.arm T t).pullPending = s.pullPending := by cases T <;> rfl
@[simp] theorem State.arm_address (s : State) (T : Timer) (t : Time) : (s.arm T t).address = s.address := by cases T <;> rfl
@[simp] theorem State.arm_now (s : State) (T : Timer) (t : Time) : (s.arm T t).now = s.now := by cases T <;> rfl
@[simp] theorem State.arm_tSetup (s : State) (T : Timer) (t : Time) : (s.arm T t).tSetup = s.tSetup := by cases T <;> rfl
@[simp] theorem State.arm_txEnd_txEndAt (s : State) (t : Time) : (s.arm .txEnd t).txEndAt = some t := rfl
@[simp] theorem State.arm_ifgEnd_txEndAt (s : State) (t : Time) : (s.arm .ifgEnd t).txEndAt = s.txEndAt := rfl
@[simp] theorem State.arm_pauseEnd_txEndAt (s : State) (t : Time) : (s.arm .pauseEnd t).txEndAt = s.txEndAt := rfl
@[simp] theorem State.arm_txEnd_ifgEndAt (s : State) (t : Time) : (s.arm .txEnd t).ifgEndAt = s.ifgEndAt := rfl
@[simp] theorem State.arm_ifgEnd_ifgEndAt (s : State) (t : Time) : (s.arm .ifgEnd t).ifgEndAt = some t := rfl
@[simp] theorem State.arm_pauseEnd_ifgEndAt (s : State) (t : Time) : (s.arm .pauseEnd t).ifgEndAt = s.ifgEndAt := rfl
@[simp] theorem State.arm_txEnd_pauseEndAt (s : State) (t : Time) : (s.arm .txEnd t).pauseEndAt = s.pauseEndAt := rfl
@[simp] theorem State.arm_ifgEnd_pauseEndAt (s : State) (t : Time) : (s.arm .ifgEnd t).pauseEndAt = s.pauseEndAt := rfl
@[simp] theorem State.arm_pauseEnd_pauseEndAt (s : State) (t : Time) : (s.arm .pauseEnd t).pauseEndAt = some t := rfl
@[simp] theorem State.arm_lastTxFinishTime (s : State) (T : Timer) (t : Time) : (s.arm T t).lastTxFinishTime = s.lastTxFinishTime := by cases T <;> rfl
@[simp] theorem State.arm_fault (s : State) (T : Timer) (t : Time) : (s.arm T t).fault = s.fault := by cases T <;> rfl
@[simp] theorem State.arm_cfg (s : State) (T : Timer) (t : Time) : (s.arm T t).cfg = s.cfg := by cases T <;> rfl
@[simp] theorem State.arm_overheadBytes (s : State) (T : Timer) (t : Time) : (s.arm T t).overheadBytes = s.overheadBytes := by cases T <;> rfl
@[simp] theorem State.arm_counters (s : State) (T : Timer) (t : Time) : (s.arm T t).counters = s.counters := by cases T <;> rfl
@[simp] theorem State.arm_rxOkTime (s : State) (T : Timer) (t : Time) : (s.arm T t).rxOkTime = s.rxOkTime := by cases T <;> rfl
@[simp] theorem State.arm_out (s : State) (T : Timer) (t : Time) : (s.arm T t).out = s.out := by cases T <;> rfl
@[simp] theorem State.arm_refused (s : State) (T : Timer) (t : Time) : (s.arm T t).refused = s.refused := by cases T <;> rfl
@[simp] theorem State.arm_inbox (s : State) (T : Timer) (t : Time) : (s.arm T t).inbox = s.inbox := by cases T <;> rfl
@[simp] theorem State.arm_cur (s : State) (T : Timer) (t : Time) : (s.arm T t).cur = s.cur := by cases T <;> rfl
@[simp] theorem State.arm_ties (s : State) (T : Timer) (t : Time) : (s.arm T t).ties = s.ties := by cases T <;> rfl
@[simp] theorem State.arm_tieDraws (s : State) (T : Timer) (t : Time) : (s.arm T t).tieDraws = s.tieDraws := by cases T <;> rfl

/-! ## disarm -/

@[simp] theorem State.disarm_phase (s : State) (T : Timer) : (s.disarm T).phase = s.phase := by cases T <;> rfl
@[simp] theorem State.disarm_txState (s : State) (T : Timer) : (s.disarm T).txState = s.txState := by cases T <;> rfl
@[simp] theorem State.disarm_slot (s : State) (T : Timer) : (s.disarm T).slot = s.slot := by cases T <;> rfl
@[simp] theorem State.disarm_queue (s : State) (T : Timer) : (s.disarm T).queue = s.queue := by cases T <;> rfl
@[simp] theorem State.disarm_pendingPause (s : State) (T : Timer) : (s.disarm T).pendingPause = s.pendingPause := by cases T <;> rfl
@[simp] theorem State.disarm_connected (s : State) (T : Timer) : (s.disarm T).connected = s.connected := by cases T <;> rfl
@[simp] theorem State.disarm_disabled (s : State) (T : Timer) : (s.disarm T).disabled = s.disabled := by cases T <;> rfl
@[simp] theorem State.disarm_pullPending (s : State) (T : Timer) : (s.disarm T).pullPending = s.pullPending := by cases T <;> rfl
@[simp] theorem State.disarm_address (s : State) (T : Timer) : (s.disarm T).address = s.address := by cases T <;> rfl
@[simp] theorem State.disarm_now (s : State) (T : Timer) : (s.disarm T).now = s.now := by cases T <;> rfl
@[simp] theorem State.disarm_tSetup (s : State) (T : Timer) : (s.disarm T).tSetup = s.tSetup := by cases T <;> rfl
@[simp] theorem State.disarm_txEnd_txEndAt (s : State) : (s.disarm .txEnd).txEndAt = none := rfl
@[simp] theorem State.disarm_ifgEnd_txEndAt (s : State) : (s.disarm .ifgEnd).txEndAt = s.txEndAt := rfl
@[simp] theorem State.disarm_pauseEnd_txEndAt (s : State) : (s.disarm .pauseEnd).txEndAt = s.txEndAt := rfl
@[simp] theorem State.disarm_txEnd_ifgEndAt (s : State) : (s.disarm .txEnd).ifgEndAt = s.ifgEndAt := rfl
@[simp] theorem State.disarm_ifgEnd_ifgEndAt (s : State) : (s.disarm .ifgEnd).ifgEndAt = none := rfl
@[simp] theorem State.disarm_pauseEnd_ifgEndAt (s : State) : (s.disarm .pauseEnd).ifgEndAt = s.ifgEndAt := rfl
@[simp] theorem State.disarm_txEnd_pauseEndAt (s : State) : (s.disarm .txEnd).pauseEndAt = s.pauseEndAt := rfl
@[simp] theorem State.disarm_ifgEnd_pauseEndAt (s : State) : (s.disarm .ifgEnd).pauseEndAt = s.pauseEndAt := rfl
@[simp] theorem State.disarm_pauseEnd_pauseEndAt (s : State) : (s.disarm .pauseEnd).pauseEndAt = none := rfl
@[simp] theorem State.disarm_lastTxFinishTime (s : State) (T : Timer) : (s.disarm T).lastTxFinishTime = s.lastTxFinishTime := by cases T <;> rfl
@[simp] theorem State.disarm_fault (s : State) (T : Timer) : (s.disarm T).fault = s.fault := by cases T <;> rfl
@[simp] theorem State.disarm_cfg (s : State) (T : Timer) : (s.disarm T).cfg = s.cfg := by cases T <;> rfl
@[simp] theorem State.disarm_overheadBytes (s : State) (T : Timer) : (s.disarm T).overheadBytes = s.overheadBytes := by cases T <;> rfl
@[simp] theorem State.disarm_counters (s : State) (T : Timer) : (s.disarm T).counters = s.counters := by cases T <;> rfl
@[simp] theorem State.disarm_rxOkTime (s : State) (T : Timer) : (s.disarm T).rxOkTime = s.rxOkTime := by cases T <;> rfl
@[simp] theorem State.disarm_out (s : State) (T : Timer) : (s.disarm T).out = s.out := by cases T <;> rfl
@[simp] theorem State.disarm_refused (s : State) (T : Timer) : (s.disarm T).refused = s.refused := by cases T <;> rfl
@[simp] theorem State.disarm_inbox (s : State) (T : Timer) : (s.disarm T).inbox = s.inbox := by cases T <;> rfl
@[simp] theorem State.disarm_cur (s : State) (T : Timer) : (s.disarm T).cur = s.cur := by cases T <;> rfl
@[simp] theorem State.disarm_ties (s : State) (T : Timer) : (s.disarm T).ties = s.ties := by cases T <;> rfl
@[simp] theorem State.disarm_tieDraws (s : State) (T : Timer) : (s.disarm T).tieDraws = s.tieDraws := by cases T <;> rfl

end Sys2Proof.Machine
end

