-- ==== Sys2Proof/Laws/Ops.lean ====
section
/-!
SUPPORT. What the shared operations can do, each said once: refill, the upper-side drop, the end of an event.
-/

namespace Sys2Proof.Machine

/-! ## refill (R110) -/

theorem refill_staged {s : State} (h : s.slot ≠ none) : refill s = s := by
  simp [refill, Option.isSome_iff_ne_none, h]

theorem refill_internal_empty {s : State} (hm : s.cfg.queueMode = .internal) (hq : s.queue = []) : refill s = s := by
  simp [refill, hm, State.qpopToSlot, hq]

theorem refill_internal_head {s : State} {f : Frame} {rest : List Frame} (hs : s.slot = none)
    (hm : s.cfg.queueMode = .internal) (hq : s.queue = f :: rest) :
    refill s = { s with slot := some f, queue := rest } := by
  simp [refill, hs, hm, State.qpopToSlot, hq]

theorem refill_external_pending {s : State} (hm : s.cfg.queueMode = .external) (hp : s.pullPending = true) :
    refill s = s := by
  simp [refill, hm, hp]

theorem refill_external_pull {s : State} (hs : s.slot = none) (hm : s.cfg.queueMode = .external)
    (hp : s.pullPending = false) : refill s = { s.emit .pull with pullPending := true } := by
  simp [refill, hs, hm, hp]

/-- Everything `refill` can do: nothing, take the head of the queue, or issue one pull. -/
theorem refill_cases (s : State) :
    (refill s = s ∧ (s.slot ≠ none ∨ (s.cfg.queueMode = .internal ∧ s.queue = []) ∨
        (s.cfg.queueMode = .external ∧ s.pullPending = true))) ∨
    (∃ f rest, s.slot = none ∧ s.cfg.queueMode = .internal ∧ s.queue = f :: rest ∧
        refill s = { s with slot := some f, queue := rest }) ∨
    (s.slot = none ∧ s.cfg.queueMode = .external ∧ s.pullPending = false ∧
        refill s = { s.emit .pull with pullPending := true }) := by
  by_cases hs : s.slot = none
  · cases hm : s.cfg.queueMode with
    | internal =>
      cases hq : s.queue with
      | nil => exact .inl ⟨refill_internal_empty hm hq, .inr (.inl ⟨rfl, rfl⟩)⟩
      | cons f rest => exact .inr (.inl ⟨f, rest, hs, rfl, rfl, refill_internal_head hs hm hq⟩)
    | external =>
      cases hp : s.pullPending with
      | true => exact .inl ⟨refill_external_pending hm hp, .inr (.inr ⟨rfl, rfl⟩)⟩
      | false => exact .inr (.inr ⟨hs, rfl, rfl, refill_external_pull hs hm hp⟩)
  · exact .inl ⟨refill_staged hs, .inl hs⟩

/-! ## dropUpper (R102) -/

/-- The counter a frame from the upper layer dropped at the gate goes to (R102). -/
def dropCtr (s : State) : Ctr := if s.connected then .dropUpDisabled else .dropUpDisconn

/-- `dropUpper` is one count of that counter. -/
@[simp] theorem dropUpper_eq (s : State) : dropUpper s = s.addTo (dropCtr s) 1 := by
  unfold dropUpper dropCtr
  split <;> rfl

/-! ## The end of an event (R205) -/

@[simp] theorem conclude_ok (s t : State) : conclude s (.ok t) = t := rfl
@[simp] theorem conclude_error (s : State) (code : Fatal) (info : FaultInfo) :
    conclude s (.error (code, info)) = s.halt code info := rfl

/-- An event ends in the state its body reached, or in the halt of the state it began in. -/
theorem conclude_cases (s : State) (b : Body) :
    (∃ t, b = .ok t ∧ conclude s b = t) ∨ ∃ code info, b = .error (code, info) ∧ conclude s b = s.halt code info := by
  match b with
  | .ok t => exact .inl ⟨t, rfl, rfl⟩
  | .error (code, info) => exact .inr ⟨code, info, rfl, rfl⟩

/-! ## Admission (R213, R220) -/

theorem admitted_iff (p : Phase) (s : State) : admitted p s = true ↔ s.phase = p ∧ s.now ≤ s.cur.stamp := by
  simp [admitted]

theorem firing_iff (T : Timer) (s : State) :
    firing T s = true ↔ s.cur.source = .timer ∧ s.timerAt T = some s.cur.stamp ∧ s.phase = .run ∧
      s.now ≤ s.cur.stamp := by
  simp [firing, admitted, and_assoc]

theorem admitted_false {p : Phase} {s : State} (h : s.phase ≠ p ∨ s.cur.stamp < s.now) : admitted p s = false := by
  rw [Bool.eq_false_iff, ne_eq, admitted_iff]
  rintro ⟨h1, h2⟩
  exact h.elim (fun h => h h1) (fun h => absurd h2 (not_le.2 h))

theorem firing_false {T : Timer} {s : State}
    (h : s.phase ≠ .run ∨ s.cur.stamp < s.now ∨ s.cur.source = .environment ∨ s.timerAt T ≠ some s.cur.stamp) :
    firing T s = false := by
  rw [Bool.eq_false_iff, ne_eq, firing_iff]
  rintro ⟨h1, h2, h3, h4⟩
  rcases h with h | h | h | h
  · exact h h3
  · exact absurd h4 (not_le.2 h)
  · exact absurd (h1.symm.trans h) (by decide)
  · exact h h2

theorem gateClosed_iff (s : State) : gateClosed s = true ↔ s.connected = false ∨ s.disabled = true := by
  simp [gateClosed]

theorem gateOpen_iff (s : State) : gateClosed s = false ↔ s.connected = true ∧ s.disabled = false := by
  simp [gateClosed]

/-! ## Whether a SETUP has completed (R220, R243) -/

theorem raisedBySetup_iff (c : Fatal) : c.raisedBySetup = true ↔ c.code.toNat ≤ 2 := by cases c <;> decide

theorem setupDone_iff (s : State) :
    setupDone s = true ↔ s.phase = .run ∨ s.phase = .stopped ∨
      (s.phase = .halted ∧ ∃ code info, s.fault = some (code, info) ∧ 2 < code.code.toNat) := by
  unfold setupDone
  cases s.phase <;> rcases hf : s.fault with _ | ⟨code, info⟩ <;> simp [← Bool.not_eq_true, raisedBySetup_iff]

end Sys2Proof.Machine
end

