-- ==== Sys2Proof/Laws/Transmit.lean ====
section
/-!
SUPPORT. What the transmission controller can do (41_transmit.md R120 to R131), each procedure said once as explicit
updates of the state.
-/

namespace Sys2Proof.Machine

/-- The state in which the staged frame `f` has been put on the wire (R123). -/
def started (f : Frame) (s : State) : State :=
  { (s.emit (.tx (wireFrame s f))).arm .txEnd (s.now + s.cfg.wireTime (wireFrame s f).wireLen) with
    txState := .transmitting }

theorem startFrameTransmission_ok {s : State} {f : Frame} (hs : s.slot = some f) (hc : s.connected = true) :
    startFrameTransmission s = .ok (started f s) := by
  simp [startFrameTransmission, hs, hc, started]

/-! ## The gate loop -/

theorem drainGate_open {s : State} (h : gateClosed s = false) (fuel : Nat) : drainGate fuel s = s := by
  cases fuel <;> simp [drainGate, h]

theorem drainGate_empty {s : State} (h : s.slot = none) (fuel : Nat) : drainGate fuel s = s := by
  cases fuel <;> simp [drainGate, h]

/-- INTERNAL: the loop drops the staged frame and every queued one, one count each (R121). -/
theorem drainGate_internal (q : List Frame) :
    ∀ (s : State) (f : Frame), s.slot = some f → s.queue = q → s.cfg.queueMode = .internal → gateClosed s = true →
      drainGate (q.length + 1) s =
        { s with slot := none, queue := [], counters := s.counters.add (dropCtr s) (q.length + 1) } := by
  induction q with
  | nil =>
    intro s f hs hq hm hg
    have hr : refill { dropUpper s with slot := none } = { dropUpper s with slot := none } :=
      refill_internal_empty (by simpa using hm) (by simpa using hq)
    have h1 : drainGate ([] : List Frame).length (refill { dropUpper s with slot := none }) =
        { dropUpper s with slot := none } := by rw [hr]; rfl
    rw [drainGate, h1]
    simp [hs, hg, State.addTo, hq]
  | cons g rest ih =>
    intro s f hs hq hm hg
    have hr : refill { dropUpper s with slot := none } =
        { dropUpper s with slot := some g, queue := rest } :=
      refill_internal_head (s := { dropUpper s with slot := none }) rfl (by simpa using hm) (by simpa using hq)
    have h1 : drainGate ((g :: rest).length + 1) s =
        drainGate (rest.length + 1) { dropUpper s with slot := some g, queue := rest } := by
      rw [← hr, drainGate]
      simp [hs, hg]
    rw [h1, ih _ g rfl rfl (by simpa using hm) (by simpa [gateClosed] using hg)]
    simp [State.addTo, dropCtr, Nat.add_comm]

/-- EXTERNAL: the loop drops the staged frame, one count, and asks for the next one unless a pull is pending (R121). -/
theorem drainGate_external {s : State} {f : Frame} (hs : s.slot = some f) (hm : s.cfg.queueMode = .external)
    (hg : gateClosed s = true) (fuel : Nat) :
    drainGate (fuel + 1) s =
      { s with slot := none, counters := s.counters.add (dropCtr s) 1, pullPending := true,
               out := if s.pullPending then s.out else s.out ++ [⟨s.now, .pull⟩] } := by
  have hempty : ∀ t : State, t.slot = none → drainGate fuel t = t := fun t ht => drainGate_empty ht fuel
  cases hp : s.pullPending with
  | true =>
    have hr : refill { dropUpper s with slot := none } = { dropUpper s with slot := none } :=
      refill_external_pending (by simpa using hm) (by simpa using hp)
    rw [drainGate, hr, hempty _ rfl]
    simp [hs, hg, State.addTo, hp]
  | false =>
    have hr : refill { dropUpper s with slot := none } =
        { State.emit { dropUpper s with slot := none } .pull with pullPending := true } :=
      refill_external_pull rfl (by simpa using hm) (by simpa using hp)
    rw [drainGate, hr, hempty _ (by simp)]
    simp [hs, hg, State.addTo, State.emit]

/-- The gate loop leaves nothing staged when it starts with the gate closed. -/
theorem drainGate_slot {s : State} (hg : gateClosed s = true) : (drainGate (s.queue.length + 1) s).slot = none := by
  cases hs : s.slot with
  | none => rw [drainGate_empty hs, hs]
  | some f =>
    cases hm : s.cfg.queueMode with
    | internal => rw [drainGate_internal s.queue s f hs rfl hm hg]
    | external => rw [drainGate_external hs hm hg]

/-! ## beginSendFrames (R120, R121) -/

/-- The state in which a closed gate has had everything staged and queued dropped (R121). -/
def drained (s : State) : State :=
  match s.cfg.queueMode with
  | .internal =>
    { s with slot := none, queue := [], counters := s.counters.add (dropCtr s) (s.queue.length + 1), txState := .idle }
  | .external =>
    { s with slot := none, counters := s.counters.add (dropCtr s) 1, pullPending := true,
             out := if s.pullPending then s.out else s.out ++ [⟨s.now, .pull⟩], txState := .idle }

theorem beginSendFrames_transmitting {s : State} (h : s.txState = .transmitting) : beginSendFrames s = .ok s := by
  simp [beginSendFrames, h]

theorem beginSendFrames_empty {s : State} (h : s.txState ≠ .transmitting) (hs : s.slot = none) :
    beginSendFrames s = .ok { s with txState := .idle } := by
  simp [beginSendFrames, h, drainGate_empty hs, hs]

theorem beginSendFrames_start {s : State} {f : Frame} (h : s.txState ≠ .transmitting) (hs : s.slot = some f)
    (hg : gateClosed s = false) : beginSendFrames s = .ok (started f s) := by
  simp [beginSendFrames, h, drainGate_open hg, hs, startFrameTransmission_ok hs ((gateOpen_iff s).1 hg).1]

theorem beginSendFrames_drain {s : State} {f : Frame} (h : s.txState ≠ .transmitting) (hs : s.slot = some f)
    (hg : gateClosed s = true) : beginSendFrames s = .ok (drained s) := by
  have hd := drainGate_slot hg
  cases hm : s.cfg.queueMode with
  | internal =>
    rw [drainGate_internal s.queue s f hs rfl hm hg] at hd
    simp [beginSendFrames, h, drainGate_internal s.queue s f hs rfl hm hg, drained, hm]
  | external =>
    rw [drainGate_external hs hm hg] at hd
    simp [beginSendFrames, h, drainGate_external hs hm hg, drained, hm]

/-- Everything `beginSendFrames` can do; it raises no fatal error. -/
theorem beginSendFrames_cases (s : State) :
    (s.txState = .transmitting ∧ beginSendFrames s = .ok s) ∨
    (s.txState ≠ .transmitting ∧ s.slot = none ∧ beginSendFrames s = .ok { s with txState := .idle }) ∨
    (∃ f, s.txState ≠ .transmitting ∧ s.slot = some f ∧ gateClosed s = false ∧
      beginSendFrames s = .ok (started f s)) ∨
    (∃ f, s.txState ≠ .transmitting ∧ s.slot = some f ∧ gateClosed s = true ∧ beginSendFrames s = .ok (drained s)) := by
  by_cases h : s.txState = .transmitting
  · exact .inl ⟨h, beginSendFrames_transmitting h⟩
  · cases hs : s.slot with
    | none => exact .inr (.inl ⟨h, rfl, hs ▸ beginSendFrames_empty h hs⟩)
    | some f =>
      cases hg : gateClosed s with
      | false => exact .inr (.inr (.inl ⟨f, h, rfl, rfl, beginSendFrames_start h hs hg⟩))
      | true => exact .inr (.inr (.inr ⟨f, h, rfl, rfl, beginSendFrames_drain h hs hg⟩))

/-! ## The end of a transmission (R127) -/

/-- Which counters a sent frame adds to (R127). -/
theorem countSent_eq (f : Frame) (s : State) :
    countSent f s =
      { s with counters := if f.kind = .pause
          then (s.counters.add .txPause 1).add .txPauseUnits f.pauseUnits.toNat
          else (s.counters.add .txFrames 1).add .txBytes f.len.toNat } := by
  unfold countSent
  split <;> rfl

theorem schedulePause_eq (u : Half) (s : State) :
    schedulePause u s = { s with pauseEndAt := some (s.now + s.cfg.pauseTime u), txState := .paused } := by
  simp [schedulePause, State.arm]

theorem pauseOrGap_eq (s : State) :
    pauseOrGap s =
      if s.pendingPause ≠ 0 then
        { s with pendingPause := 0, pauseEndAt := some (s.now + s.cfg.pauseTime s.pendingPause), txState := .paused }
      else { s with ifgEndAt := some (s.now + s.cfg.gapTime), txState := .waitIfg } := by
  unfold pauseOrGap
  split <;> simp [schedulePause, State.arm]

end Sys2Proof.Machine
end

