-- ==== Sys2Proof/Laws/Control.lean ====
section
/-!
SUPPORT. What the host's events can do (43_control.md R180 to R193).
-/

namespace Sys2Proof.Machine

/-- What a legal configuration satisfies (R182). -/
theorem validate_none {overhead : Nat} {c : CfgRegs} (h : validate overhead c = none) :
    c.duplexMode = true ∧ c.reservedBitSet = false ∧ c.lineRate ≠ 0 ∧ c.maxFrameBytes + overhead ≤ 65535 ∧
      c.minFrameBytes ≤ c.maxFrameBytes ∧ (c.queueMode = .internal → c.queueLimit ≠ 0) := by
  unfold validate at h
  split at h <;> [cases h; skip]
  split at h <;> [cases h; skip]
  split at h <;> [cases h; skip]
  split at h <;> [cases h; skip]
  split at h <;> [cases h; skip]
  split at h <;> [cases h; skip]
  simp_all

/-- SETUP loads the legal record (R180); a pull goes out in EXTERNAL mode (R186). -/
theorem setupBody_legal {s : State} (h : validate s.overheadBytes s.cur.record = none) :
    setupBody s = .ok
      (match s.cur.record.queueMode with
        | .internal => loadSetup s.cur.record s
        | .external => { loadSetup s.cur.record s with pullPending := true, out := s.out ++ [⟨s.now, .pull⟩] }) := by
  unfold setupBody
  simp only [h]
  cases hm : s.cur.record.queueMode with
  | internal => rfl
  | external =>
    simp only
    rw [refill_external_pull rfl hm rfl]
    rfl

theorem setupBody_illegal {s : State} {code : Fatal} (h : validate s.overheadBytes s.cur.record = some code) :
    setupBody s = .error (code, .record s.cur.record) := by
  simp [setupBody, h]

/-- Everything SET_ADMIN can do: write the flag, and on re-enable in IDLE refill and begin to send (R193). -/
theorem setAdminBody_cases (d : Bool) (s : State) :
    (¬(s.disabled = true ∧ d = false ∧ s.txState = .idle) ∧ setAdminBody d s = .ok { s with disabled := d }) ∨
    (s.disabled = true ∧ d = false ∧ s.txState = .idle ∧
      setAdminBody d s = beginSendFrames (refill { s with disabled := false })) := by
  unfold setAdminBody
  by_cases h : s.disabled = true ∧ d = false ∧ s.txState = .idle
  · obtain ⟨h1, h2, h3⟩ := h
    exact .inr ⟨h1, h2, h3, by simp [h1, h2, h3]⟩
  · exact .inl ⟨h, by simp [h]⟩

end Sys2Proof.Machine
end

