-- ==== Sys2Proof/Laws/Decode.lean ====
section
/-!
SUPPORT. A word laid out from its fields is the number the field table says, and each field reads back what was laid
there (30_encoding.md R80).
-/

namespace Sys2Proof

/-- Concatenation in numbers: the left part above the right (R11). -/
theorem append_toNat {m n : Nat} (x : BitVec m) (y : BitVec n) : (x ++ y).toNat = x.toNat * 2 ^ n + y.toNat := by
  rw [BitVec.toNat_append, ← Nat.shiftLeft_add_eq_or_of_lt y.isLt, Nat.shiftLeft_eq]

/-- The number a word is, by its fields (R80). -/
theorem packWord_toNat (src dst : Mac) (p w l : Half) (rsv : BitVec 7) (s e : Bool) (k : BitVec 2) (a : Bool)
    (ev : BitVec 4) :
    (packWord src dst p w l rsv s e k a ev).toNat =
      src.toNat * 2 ^ 112 + dst.toNat * 2 ^ 64 + p.toNat * 2 ^ 48 + w.toNat * 2 ^ 32 + l.toNat * 2 ^ 16 +
        rsv.toNat * 2 ^ 9 + s.toNat * 2 ^ 8 + e.toNat * 2 ^ 7 + k.toNat * 2 ^ 5 + a.toNat * 2 ^ 4 + ev.toNat := by
  unfold packWord
  simp only [append_toNat, BitVec.toNat_ofBool]
  omega

/-- A bit of a word in numbers. -/
theorem getLsbD_eq_decide (w : EventWord) (i : Nat) : w.getLsbD i = decide (w.toNat / 2 ^ i % 2 = 1) := by
  rw [BitVec.getLsbD, Nat.testBit_eq_decide_div_mod_eq]

section fields

variable (src dst : Mac) (p w l : Half) (rsv : BitVec 7) (s e : Bool) (k : BitVec 2) (a : Bool) (ev : BitVec 4)

@[simp] theorem fieldEv_packWord : fieldEv (packWord src dst p w l rsv s e k a ev) = ev := by
  apply BitVec.eq_of_toNat_eq
  have := ev.isLt; have := a.toNat_lt
  simp only [fieldEv, BitVec.extractLsb'_toNat, packWord_toNat, Nat.shiftRight_eq_div_pow]
  omega

@[simp] theorem fieldK_packWord : fieldK (packWord src dst p w l rsv s e k a ev) = k := by
  apply BitVec.eq_of_toNat_eq
  have := ev.isLt; have := a.toNat_lt; have := k.isLt
  simp only [fieldK, BitVec.extractLsb'_toNat, packWord_toNat, Nat.shiftRight_eq_div_pow]
  omega

@[simp] theorem fieldRsv_packWord : fieldRsv (packWord src dst p w l rsv s e k a ev) = rsv := by
  apply BitVec.eq_of_toNat_eq
  have := ev.isLt; have := a.toNat_lt; have := k.isLt; have := e.toNat_lt; have := s.toNat_lt; have := rsv.isLt
  simp only [fieldRsv, BitVec.extractLsb'_toNat, packWord_toNat, Nat.shiftRight_eq_div_pow]
  omega

@[simp] theorem fieldL_packWord : fieldL (packWord src dst p w l rsv s e k a ev) = l := by
  apply BitVec.eq_of_toNat_eq
  have := ev.isLt; have := a.toNat_lt; have := k.isLt; have := e.toNat_lt; have := s.toNat_lt; have := rsv.isLt
  have := l.isLt
  simp only [fieldL, BitVec.extractLsb'_toNat, packWord_toNat, Nat.shiftRight_eq_div_pow]
  omega

@[simp] theorem fieldW_packWord : fieldW (packWord src dst p w l rsv s e k a ev) = w := by
  apply BitVec.eq_of_toNat_eq
  have := ev.isLt; have := a.toNat_lt; have := k.isLt; have := e.toNat_lt; have := s.toNat_lt; have := rsv.isLt
  have := l.isLt; have := w.isLt
  simp only [fieldW, BitVec.extractLsb'_toNat, packWord_toNat, Nat.shiftRight_eq_div_pow]
  omega

@[simp] theorem fieldP_packWord : fieldP (packWord src dst p w l rsv s e k a ev) = p := by
  apply BitVec.eq_of_toNat_eq
  have := ev.isLt; have := a.toNat_lt; have := k.isLt; have := e.toNat_lt; have := s.toNat_lt; have := rsv.isLt
  have := l.isLt; have := w.isLt; have := p.isLt
  simp only [fieldP, BitVec.extractLsb'_toNat, packWord_toNat, Nat.shiftRight_eq_div_pow]
  omega

@[simp] theorem fieldDst_packWord : fieldDst (packWord src dst p w l rsv s e k a ev) = dst := by
  apply BitVec.eq_of_toNat_eq
  have := ev.isLt; have := a.toNat_lt; have := k.isLt; have := e.toNat_lt; have := s.toNat_lt; have := rsv.isLt
  have := l.isLt; have := w.isLt; have := p.isLt; have := dst.isLt
  simp only [fieldDst, BitVec.extractLsb'_toNat, packWord_toNat, Nat.shiftRight_eq_div_pow]
  omega

@[simp] theorem fieldSrc_packWord : fieldSrc (packWord src dst p w l rsv s e k a ev) = src := by
  apply BitVec.eq_of_toNat_eq
  have := ev.isLt; have := a.toNat_lt; have := k.isLt; have := e.toNat_lt; have := s.toNat_lt; have := rsv.isLt
  have := l.isLt; have := w.isLt; have := p.isLt; have := dst.isLt; have := src.isLt
  simp only [fieldSrc, BitVec.extractLsb'_toNat, packWord_toNat, Nat.shiftRight_eq_div_pow]
  omega

@[simp] theorem fieldA_packWord : fieldA (packWord src dst p w l rsv s e k a ev) = a := by
  have := ev.isLt
  rw [fieldA, getLsbD_eq_decide, packWord_toNat]
  cases a <;> simp only [decide_eq_true_eq, decide_eq_false_iff_not, Bool.toNat_true, Bool.toNat_false] <;> omega

@[simp] theorem fieldE_packWord : fieldE (packWord src dst p w l rsv s e k a ev) = e := by
  have := ev.isLt; have := a.toNat_lt; have := k.isLt
  rw [fieldE, getLsbD_eq_decide, packWord_toNat]
  cases e <;> simp only [decide_eq_true_eq, decide_eq_false_iff_not, Bool.toNat_true, Bool.toNat_false] <;> omega

@[simp] theorem fieldS_packWord : fieldS (packWord src dst p w l rsv s e k a ev) = s := by
  have := ev.isLt; have := a.toNat_lt; have := k.isLt; have := e.toNat_lt
  rw [fieldS, getLsbD_eq_decide, packWord_toNat]
  cases s <;> simp only [decide_eq_true_eq, decide_eq_false_iff_not, Bool.toNat_true, Bool.toNat_false] <;> omega

end fields

end Sys2Proof
end

