-- ==== Sys2Proof/Laws/Receive.lean ====
section
/-!
SUPPORT. What RX can do (42_receive_pause.md R150 to R163), each branch as explicit updates of the state.
-/

namespace Sys2Proof.Machine

/-- Everything `processPauseCommand` can do (R160 to R163). -/
theorem processPauseCommand_eq (u : Half) (s : State) :
    processPauseCommand u s =
      match s.txState with
      | .idle =>
        if u = 0 then s else { s with pauseEndAt := some (s.now + s.cfg.pauseTime u), txState := .paused }
      | .paused => { s with pauseEndAt := some (s.now + s.cfg.pauseTime u), txState := .paused }
      | .transmitting => { s with pendingPause := u }
      | .waitIfg => { s with pendingPause := u } := by
  unfold processPauseCommand
  split <;> simp_all [schedulePause_eq, State.disarm]

/-- The delivery of a DATA frame (R157). -/
theorem deliverData_eq (f : Frame) (s : State) :
    deliverData f s =
      { s with counters := (s.counters.add .rxOkFrames 1).add .rxOkBytes (strippedFrame s f).len.toNat,
               rxOkTime := s.rxOkTime + s.cfg.wireTime f.wireLen,
               out := s.out ++ [⟨s.now, .deliver (strippedFrame s f)⟩] } := by
  simp [deliverData, State.emit, State.addTo]

/-- Everything RX of a DATA frame can do: one counter, the delivery, or nothing. -/
theorem rxDataBody_cases (f : Frame) (s : State) :
    (f.err = true ∧ rxDataBody f s = s.addTo .dropBiterr 1) ∨
    (f.err = false ∧ gateClosed s = true ∧ s.connected = true ∧ rxDataBody f s = s.addTo .dropRxDisabled 1) ∨
    (f.err = false ∧ gateClosed s = true ∧ s.connected = false ∧ rxDataBody f s = s.addTo .dropRxDisconn 1) ∨
    (f.err = false ∧ gateClosed s = false ∧ addressedToUs s f.dst = false ∧ rxDataBody f s = s) ∨
    (f.err = false ∧ gateClosed s = false ∧ addressedToUs s f.dst = true ∧ rxDataBody f s = deliverData f s) := by
  unfold rxDataBody
  cases f.err <;> cases gateClosed s <;> cases addressedToUs s f.dst <;> cases s.connected <;> simp

/-- Everything RX of a PAUSE frame can do: the bit-error count, nothing, or the pause command. -/
theorem rxPauseBody_cases (f : Frame) (s : State) :
    (f.err = true ∧ rxPauseBody f s = s.addTo .dropBiterr 1) ∨
    (f.err = false ∧ (gateClosed s = true ∨ addressedToUs s f.dst = false) ∧ rxPauseBody f s = s) ∨
    (f.err = false ∧ gateClosed s = false ∧ addressedToUs s f.dst = true ∧
      rxPauseBody f s =
        processPauseCommand f.pauseUnits ((s.addTo .rxPause 1).addTo .rxPauseUnits f.pauseUnits.toNat)) := by
  unfold rxPauseBody
  cases f.err <;> cases gateClosed s <;> cases addressedToUs s f.dst <;> simp

end Sys2Proof.Machine
end

