-- ==== Sys2Proof/Laws/Submit.lean ====
section
/-!
SUPPORT. What SUBMIT can do (40_upper_layer.md R100 to R106).
-/

namespace Sys2Proof.Machine

/-! ## The frame admitted (R103) -/

/-- The frame that goes to admission: padded, its source set (R103). -/
def readied (s : State) (f : Frame) : Frame := assignSource s (padFrame s f)

theorem padFrame_len (s : State) (f : Frame) : (padFrame s f).len.toNat = max f.len.toNat s.cfg.minFrameBytes := by
  have h := s.cfg.minFrameBytes_lt
  unfold padFrame
  split <;> simp <;> omega

/-- A frame within the maximum is a frame the block may hold once it is readied (R103, R44 item 6). -/
theorem readied_len (s : State) (f : Frame) : (readied s f).len.toNat = max f.len.toNat s.cfg.minFrameBytes :=
  padFrame_len s f

@[simp] theorem readied_srcValid (s : State) (f : Frame) : (readied s f).srcValid = true := rfl
@[simp] theorem readied_kind (s : State) (f : Frame) : (readied s f).kind = f.kind := rfl

/-! ## The drop at the gate (R102) -/

theorem dropAtGate_internal {s : State} (hm : s.cfg.queueMode = .internal) :
    dropAtGate s = { s with counters := s.counters.add (dropCtr s) 1 } := by
  simp [dropAtGate, hm, State.addTo]

theorem dropAtGate_external_staged {s : State} (hm : s.cfg.queueMode = .external) (hs : s.slot ≠ none) :
    dropAtGate s = { s with counters := s.counters.add (dropCtr s) 1, pullPending := false } := by
  have h : refill { dropUpper s with pullPending := false } = { dropUpper s with pullPending := false } :=
    refill_staged (by simpa using hs)
  simp only [dropAtGate, hm]
  rw [h]
  simp [State.addTo]

theorem dropAtGate_external_empty {s : State} (hm : s.cfg.queueMode = .external) (hs : s.slot = none) :
    dropAtGate s =
      { s with counters := s.counters.add (dropCtr s) 1, pullPending := true, out := s.out ++ [⟨s.now, .pull⟩] } := by
  have h : refill { dropUpper s with pullPending := false } =
      { State.emit { dropUpper s with pullPending := false } .pull with pullPending := true } :=
    refill_external_pull (by simpa using hs) (by simpa using hm) rfl
  simp only [dropAtGate, hm]
  rw [h]
  simp [State.addTo, State.emit]

/-! ## Admission (R104, R105) -/

theorem admit_overflow_fatal {s : State} {g : Frame} (hm : s.cfg.queueMode = .internal)
    (hl : s.cfg.queueLimit ≤ s.queue.length) (hp : s.cfg.overflowPolicy = .fatal) :
    admission g s = .error (.queueOverflow, .frame g) := by
  simp [admission, hm, admitInternal, hl, hp]

theorem admit_overflow_reject {s : State} {g : Frame} (hm : s.cfg.queueMode = .internal)
    (hl : s.cfg.queueLimit ≤ s.queue.length) (hp : s.cfg.overflowPolicy = .reject) :
    admission g s =
      .ok { s with counters := s.counters.add .dropQfull 1, out := s.out ++ [⟨s.now, .reject g⟩] } := by
  simp [admission, hm, admitInternal, hl, hp, State.addTo, State.emit]

theorem admit_internal_queued {s : State} {g : Frame} (hm : s.cfg.queueMode = .internal)
    (hl : s.queue.length < s.cfg.queueLimit) (hs : s.slot ≠ none) :
    admission g s = .ok { s with queue := s.queue ++ [g] } := by
  simp [admission, hm, admitInternal, Nat.not_le.2 hl, Option.isSome_iff_ne_none, hs, State.qpush]

theorem admit_internal_staged {s : State} {g : Frame} (hm : s.cfg.queueMode = .internal)
    (hl : s.queue.length < s.cfg.queueLimit) (hs : s.slot = none) (hq : s.queue = []) :
    admission g s = .ok { s with slot := some g } := by
  have hl' : s.cfg.queueLimit ≠ 0 := by intro h0; simp [h0] at hl
  simp [admission, hm, admitInternal, hs, State.qpush, State.qpopToSlot, hq, hl']

theorem admit_internal_head {s : State} {f g : Frame} {rest : List Frame} (hm : s.cfg.queueMode = .internal)
    (hl : s.queue.length < s.cfg.queueLimit) (hs : s.slot = none) (hq : s.queue = f :: rest) :
    admission g s = .ok { s with slot := some f, queue := rest ++ [g] } := by
  have hl' : ¬ s.cfg.queueLimit ≤ (f :: rest).length := by simpa [hq] using hl
  simp only [List.length_cons] at hl'
  simp [admission, hm, admitInternal, hs, State.qpush, State.qpopToSlot, hq, hl']

theorem admit_external_busy {s : State} {g : Frame} (hm : s.cfg.queueMode = .external) (hs : s.slot ≠ none) :
    admission g s = .error (.extSlotBusy, .frame g) := by
  simp [admission, hm, admitExternal, Option.isSome_iff_ne_none, hs]

theorem admit_external_staged {s : State} {g : Frame} (hm : s.cfg.queueMode = .external) (hs : s.slot = none) :
    admission g s = .ok { s with slot := some g, pullPending := false } := by
  simp [admission, hm, admitExternal, hs]

/-- Everything admission can do when it raises no fatal error. -/
theorem admit_ok_cases {s t : State} {g : Frame} (h : admission g s = .ok t) :
    (s.cfg.queueMode = .internal ∧ s.cfg.queueLimit ≤ s.queue.length ∧
      t = { s with counters := s.counters.add .dropQfull 1, out := s.out ++ [⟨s.now, .reject g⟩] }) ∨
    (s.cfg.queueMode = .internal ∧ s.queue.length < s.cfg.queueLimit ∧ s.slot ≠ none ∧
      t = { s with queue := s.queue ++ [g] }) ∨
    (s.cfg.queueMode = .internal ∧ s.queue.length < s.cfg.queueLimit ∧ s.slot = none ∧ s.queue = [] ∧
      t = { s with slot := some g }) ∨
    (∃ f rest, s.cfg.queueMode = .internal ∧ s.queue.length < s.cfg.queueLimit ∧ s.slot = none ∧ s.queue = f :: rest ∧
      t = { s with slot := some f, queue := rest ++ [g] }) ∨
    (s.cfg.queueMode = .external ∧ s.slot = none ∧ t = { s with slot := some g, pullPending := false }) := by
  cases hm : s.cfg.queueMode with
  | internal =>
    by_cases hl : s.cfg.queueLimit ≤ s.queue.length
    · cases hp : s.cfg.overflowPolicy with
      | fatal => simp [admit_overflow_fatal hm hl hp] at h
      | reject =>
        rw [admit_overflow_reject hm hl hp] at h
        exact .inl ⟨rfl, hl, (Except.ok.inj h).symm⟩
    · have hl' := Nat.not_le.1 hl
      by_cases hs : s.slot = none
      · cases hq : s.queue with
        | nil =>
          rw [admit_internal_staged hm hl' hs hq] at h
          rw [hq] at hl'
          exact .inr (.inr (.inl ⟨rfl, hl', hs, rfl, hq ▸ (Except.ok.inj h).symm⟩))
        | cons f rest =>
          rw [admit_internal_head hm hl' hs hq] at h
          rw [hq] at hl'
          exact .inr (.inr (.inr (.inl ⟨f, rest, rfl, hl', hs, rfl, (Except.ok.inj h).symm⟩)))
      · rw [admit_internal_queued hm hl' hs] at h
        exact .inr (.inl ⟨rfl, hl', hs, (Except.ok.inj h).symm⟩)
  | external =>
    by_cases hs : s.slot = none
    · rw [admit_external_staged hm hs] at h
      exact .inr (.inr (.inr (.inr ⟨rfl, hs, (Except.ok.inj h).symm⟩)))
    · simp [admit_external_busy hm hs] at h

/-! ## The whole rule (R100) -/

theorem submitBody_self {s : State} {f : Frame} (h : f.dst = s.address) :
    submitBody f s = .error (.submitDestIsSelf, .frame f) := by
  simp [submitBody, h]

theorem submitBody_oversize {s : State} {f : Frame} (h : f.dst ≠ s.address) (hl : s.cfg.maxFrameBytes < f.len.toNat) :
    submitBody f s = .error (.submitOversize, .frame f) := by
  simp [submitBody, h, hl]

theorem submitBody_gate {s : State} {f : Frame} (h : f.dst ≠ s.address) (hl : f.len.toNat ≤ s.cfg.maxFrameBytes)
    (hg : gateClosed s = true) : submitBody f s = .ok (dropAtGate (s.addTo .fromUpper 1)) := by
  have : gateClosed (s.addTo .fromUpper 1) = true := by simpa [gateClosed] using hg
  simp [submitBody, h, Nat.not_lt.2 hl, this]

theorem submitBody_admit {s : State} {f : Frame} (h : f.dst ≠ s.address) (hl : f.len.toNat ≤ s.cfg.maxFrameBytes)
    (hg : gateClosed s = false) :
    submitBody f s = (admission (readied s f) (s.addTo .fromUpper 1)).bind startIfIdle := by
  have : gateClosed (s.addTo .fromUpper 1) = false := by simpa [gateClosed] using hg
  simp [submitBody, h, Nat.not_lt.2 hl, this, readied, assignSource]

/-- Everything SUBMIT can do when it raises no fatal error: the frame is dropped at the gate, or it is admitted and
starts at once when the engine is idle. -/
theorem submitBody_ok_cases {s t : State} {f : Frame} (h : submitBody f s = .ok t) :
    f.dst ≠ s.address ∧ f.len.toNat ≤ s.cfg.maxFrameBytes ∧
    ((gateClosed s = true ∧ t = dropAtGate (s.addTo .fromUpper 1)) ∨
     (gateClosed s = false ∧ ∃ u, admission (readied s f) (s.addTo .fromUpper 1) = .ok u ∧ startIfIdle u = .ok t)) := by
  by_cases hd : f.dst = s.address
  · simp [submitBody_self hd] at h
  · by_cases hl : f.len.toNat ≤ s.cfg.maxFrameBytes
    · refine ⟨hd, hl, ?_⟩
      cases hg : gateClosed s with
      | true =>
        rw [submitBody_gate hd hl hg] at h
        exact .inl ⟨rfl, (Except.ok.inj h).symm⟩
      | false =>
        rw [submitBody_admit hd hl hg] at h
        cases ha : admission (readied s f) (s.addTo .fromUpper 1) with
        | error e => simp [ha, Except.bind] at h
        | ok u => exact .inr ⟨rfl, u, rfl, by simpa [ha, Except.bind] using h⟩
    · simp [submitBody_oversize hd (Nat.not_le.1 hl)] at h

theorem startIfIdle_busy {s : State} (h : s.txState ≠ .idle) : startIfIdle s = .ok s := by simp [startIfIdle, h]

theorem startIfIdle_idle {s : State} (h : s.txState = .idle) : startIfIdle s = beginSendFrames s := by
  simp [startIfIdle, h]

end Sys2Proof.Machine
end

