-- ==== Sys2Proof/Laws/Exec.lean ====
section
/-!
SUPPORT. What handling one event can do, said once for every instruction: it is refused, or it is accepted and ends in
what its body reaches, or in a halt.
-/

namespace Sys2Proof.Machine

/-- The rule of an instruction, run on the state whose `now` is already the event's stamp. -/
def bodyOf : Instr → State → Body
  | .submitData o, s => submitBody (frameOfSubmit .data o s.cur.payload) s
  | .submitPause o, s => submitBody (frameOfSubmit .pause o s.cur.payload) s
  | .submitFiller _, s => .ok s
  | .rxData o, s => .ok (rxDataBody (frameOfRx .data o s.cur.payload) s)
  | .rxPause o, s => .ok (rxPauseBody (frameOfRx .pause o s.cur.payload) s)
  | .rxFiller _, s => .ok s
  | .txEnd, s => txEndBody (s.disarm .txEnd)
  | .ifgEnd, s => ifgEndBody (s.disarm .ifgEnd)
  | .pauseEnd, s => pauseEndBody (s.disarm .pauseEnd)
  | .setAdmin d, s => setAdminBody d s
  | .shutdown, s => .ok (shutdownBody s)
  | .setup, s => setupBody s
  | .reset, s => .ok ((if s.phase = .run ∧ s.txState = .transmitting then s.emit .txAbort else s).afterReset)

/-- A refused event changes nothing but the mark (R204). -/
theorem exec_refused {i : Instr} {s : State} (h : RefusedEvent i s) : exec i s = .next s.refuse := by
  cases i <;> simp only [RefusedEvent, exec] at h ⊢
  case submitData o => simp [execSubmitData, submit, admitted_false h]
  case submitPause o => simp [execSubmitPause, submit, admitted_false h]
  case submitFiller o => rfl
  case rxData o =>
    rcases or_assoc.2 h with h | h
    · simp [execRxData, admitted_false h]
    · simp [execRxData, frameOfRx, Nat.not_le.2 h]
  case rxPause o => simp [execRxPause, admitted_false h]
  case rxFiller o => simp [execRxFiller, admitted_false h]
  case txEnd => simp [execTxEnd, firing_false (T := .txEnd) h]
  case ifgEnd => simp [execIfgEnd, firing_false (T := .ifgEnd) h]
  case pauseEnd => simp [execPauseEnd, firing_false (T := .pauseEnd) h]
  case setAdmin d => simp [execSetAdmin, admitted_false h]
  case shutdown => simp [execShutdown, admitted_false h]
  case setup => simp [execSetup, admitted_false h]
  case reset => simp [execReset, not_le.2 h]

/-- An accepted event ends in what its rule reaches (R205, R213). -/
theorem exec_accepted {i : Instr} {s : State} (h : ¬ RefusedEvent i s) :
    exec i s = .next (conclude s (bodyOf i s.arrive)) := by
  cases i <;> simp only [RefusedEvent, exec, not_or, not_lt, ne_eq, not_not] at h ⊢
  case submitData o => simp [execSubmitData, submit, admitted, h, bodyOf]
  case submitPause o => simp [execSubmitPause, submit, admitted, h, bodyOf]
  case submitFiller o => exact absurd trivial h
  case rxData o => simp [execRxData, admitted, h, bodyOf, frameOfRx]
  case rxPause o => simp [execRxPause, admitted, h, bodyOf]
  case rxFiller o => simp [execRxFiller, admitted, h, bodyOf]
  case txEnd =>
    have : s.cur.source = .timer := by cases hs : s.cur.source <;> simp_all
    simp [execTxEnd, firing, admitted, State.timerAt, h, this, bodyOf]
  case ifgEnd =>
    have : s.cur.source = .timer := by cases hs : s.cur.source <;> simp_all
    simp [execIfgEnd, firing, admitted, State.timerAt, h, this, bodyOf]
  case pauseEnd =>
    have : s.cur.source = .timer := by cases hs : s.cur.source <;> simp_all
    simp [execPauseEnd, firing, admitted, State.timerAt, h, this, bodyOf]
  case setAdmin d => simp [execSetAdmin, admitted, h, bodyOf]
  case shutdown => simp [execShutdown, admitted, h, bodyOf]
  case setup => simp [execSetup, admitted, h, bodyOf]
  case reset =>
    simp only [execReset, h, if_true, bodyOf, conclude_ok]
    rfl

/-- Everything handling one event can do. -/
theorem exec_cases (i : Instr) (s : State) :
    (RefusedEvent i s ∧ exec i s = .next s.refuse) ∨
    (∃ t, ¬ RefusedEvent i s ∧ bodyOf i s.arrive = .ok t ∧ exec i s = .next t) ∨
    (∃ code info, ¬ RefusedEvent i s ∧ bodyOf i s.arrive = .error (code, info) ∧
      exec i s = .next (s.halt code info)) := by
  by_cases h : RefusedEvent i s
  · exact .inl ⟨h, exec_refused h⟩
  · rcases conclude_cases s (bodyOf i s.arrive) with ⟨t, hb, ht⟩ | ⟨code, info, hb, ht⟩
    · exact .inr (.inl ⟨t, h, hb, by rw [exec_accepted h, ht]⟩)
    · exact .inr (.inr ⟨code, info, h, hb, by rw [exec_accepted h, ht]⟩)

end Sys2Proof.Machine
end

