-- ==== Sys2Proof/Laws/Extends.lean ====
section
/-!
SUPPORT. What no rule changes, said once for every instruction: time, the refusal mark, what the environment has offered
and the model's own fields; and that the output trace only grows (10_state.md R42; 60_exceptions.md R213).
-/

namespace Sys2Proof.Machine

/-- What no rule's body changes, and what it may do to the trace: append records stamped `now`. -/
structure Extends (s t : State) : Prop where
  now : t.now = s.now
  refused : t.refused = s.refused
  overheadBytes : t.overheadBytes = s.overheadBytes
  inbox : t.inbox = s.inbox
  cur : t.cur = s.cur
  ties : t.ties = s.ties
  tieDraws : t.tieDraws = s.tieDraws
  out : ∃ new, t.out = s.out ++ new ∧ ∀ r ∈ new, r.time = s.now

namespace Extends

theorem refl (s : State) : Extends s s := ⟨rfl, rfl, rfl, rfl, rfl, rfl, rfl, [], by simp⟩

theorem trans {s t u : State} (h : Extends s t) (k : Extends t u) : Extends s u := by
  obtain ⟨a, ha, hat⟩ := h.out
  obtain ⟨b, hb, hbt⟩ := k.out
  refine ⟨k.now.trans h.now, k.refused.trans h.refused, k.overheadBytes.trans h.overheadBytes,
    k.inbox.trans h.inbox, k.cur.trans h.cur, k.ties.trans h.ties, k.tieDraws.trans h.tieDraws,
    a ++ b, by rw [hb, ha, List.append_assoc], ?_⟩
  intro r hr
  rcases List.mem_append.1 hr with hr | hr
  · exact hat r hr
  · exact (hbt r hr).trans h.now

/-- An update that leaves the trace alone. -/
theorem quiet {s t : State} (h1 : t.now = s.now) (h2 : t.refused = s.refused) (h3 : t.overheadBytes = s.overheadBytes)
    (h4 : t.inbox = s.inbox) (h5 : t.cur = s.cur) (h6 : t.ties = s.ties) (h7 : t.tieDraws = s.tieDraws)
    (h8 : t.out = s.out) : Extends s t := ⟨h1, h2, h3, h4, h5, h6, h7, [], by simp [h8]⟩

/-- An update that appends one record stamped `now`. -/
theorem one {s t : State} {e : OutEvent} (h1 : t.now = s.now) (h2 : t.refused = s.refused)
    (h3 : t.overheadBytes = s.overheadBytes) (h4 : t.inbox = s.inbox) (h5 : t.cur = s.cur) (h6 : t.ties = s.ties)
    (h7 : t.tieDraws = s.tieDraws) (h8 : t.out = s.out ++ [⟨s.now, e⟩]) : Extends s t :=
  ⟨h1, h2, h3, h4, h5, h6, h7, [⟨s.now, e⟩], h8, by simp⟩

end Extends

/-! ## Procedure by procedure -/

theorem refill_extends (s : State) : Extends s (refill s) := by
  rcases refill_cases s with ⟨h, -⟩ | ⟨f, rest, -, -, -, h⟩ | ⟨-, -, -, h⟩ <;> rw [h]
  · exact .refl s
  · exact .quiet rfl rfl rfl rfl rfl rfl rfl rfl
  · exact .one rfl rfl rfl rfl rfl rfl rfl rfl

theorem beginSendFrames_extends {s t : State} (h : beginSendFrames s = .ok t) : Extends s t := by
  rcases beginSendFrames_cases s with ⟨-, e⟩ | ⟨-, -, e⟩ | ⟨f, -, -, -, e⟩ | ⟨f, -, -, -, e⟩ <;> rw [e] at h <;>
    cases h
  · exact .refl s
  · exact .quiet rfl rfl rfl rfl rfl rfl rfl rfl
  · exact .one rfl rfl rfl rfl rfl rfl rfl rfl
  · unfold drained
    split
    · exact .quiet rfl rfl rfl rfl rfl rfl rfl rfl
    · cases s.pullPending
      · exact .one rfl rfl rfl rfl rfl rfl rfl rfl
      · exact .quiet rfl rfl rfl rfl rfl rfl rfl rfl

theorem dropAtGate_extends (s : State) : Extends s (dropAtGate s) := by
  cases hm : s.cfg.queueMode with
  | internal => rw [dropAtGate_internal hm]; exact .quiet rfl rfl rfl rfl rfl rfl rfl rfl
  | external =>
    cases hs : s.slot with
    | none => rw [dropAtGate_external_empty hm hs]; exact .one rfl rfl rfl rfl rfl rfl rfl rfl
    | some f => rw [dropAtGate_external_staged hm (by simp [hs])]; exact .quiet rfl rfl rfl rfl rfl rfl rfl rfl

theorem admit_extends {s t : State} {g : Frame} (h : admission g s = .ok t) : Extends s t := by
  rcases admit_ok_cases h with ⟨-, -, e⟩ | ⟨-, -, -, e⟩ | ⟨-, -, -, -, e⟩ | ⟨f, rest, -, -, -, -, e⟩ | ⟨-, -, e⟩ <;> rw [e]
  · exact .one rfl rfl rfl rfl rfl rfl rfl rfl
  all_goals exact .quiet rfl rfl rfl rfl rfl rfl rfl rfl

theorem startIfIdle_extends {s t : State} (h : startIfIdle s = .ok t) : Extends s t := by
  by_cases hi : s.txState = .idle
  · exact beginSendFrames_extends (startIfIdle_idle hi ▸ h)
  · rw [startIfIdle_busy hi] at h; cases h; exact .refl s

theorem addTo_extends (s : State) (c : Ctr) (n : Nat) : Extends s (s.addTo c n) := .quiet rfl rfl rfl rfl rfl rfl rfl rfl

theorem submitBody_extends {s t : State} {f : Frame} (h : submitBody f s = .ok t) : Extends s t := by
  obtain ⟨-, -, ⟨-, rfl⟩ | ⟨-, u, ha, hs⟩⟩ := submitBody_ok_cases h
  · exact (addTo_extends ..).trans (dropAtGate_extends _)
  · exact ((addTo_extends ..).trans (admit_extends ha)).trans (startIfIdle_extends hs)

theorem processPauseCommand_extends (u : Half) (s : State) : Extends s (processPauseCommand u s) := by
  rw [processPauseCommand_eq]
  split
  · split
    · exact .refl s
    · exact .quiet rfl rfl rfl rfl rfl rfl rfl rfl
  all_goals exact .quiet rfl rfl rfl rfl rfl rfl rfl rfl

theorem rxDataBody_extends (f : Frame) (s : State) : Extends s (rxDataBody f s) := by
  rcases rxDataBody_cases f s with ⟨-, e⟩ | ⟨-, -, -, e⟩ | ⟨-, -, -, e⟩ | ⟨-, -, -, e⟩ | ⟨-, -, -, e⟩ <;> rw [e]
  · exact addTo_extends ..
  · exact addTo_extends ..
  · exact addTo_extends ..
  · exact .refl s
  · rw [deliverData_eq]; exact .one rfl rfl rfl rfl rfl rfl rfl rfl

theorem rxPauseBody_extends (f : Frame) (s : State) : Extends s (rxPauseBody f s) := by
  rcases rxPauseBody_cases f s with ⟨-, e⟩ | ⟨-, -, e⟩ | ⟨-, -, -, e⟩ <;> rw [e]
  · exact addTo_extends ..
  · exact .refl s
  · exact ((addTo_extends ..).trans (addTo_extends ..)).trans (processPauseCommand_extends ..)

theorem onTransmissionEnd_extends (f : Frame) (s : State) : Extends s (onTransmissionEnd f s) := by
  have h1 : Extends s { countSent f s with slot := none, lastTxFinishTime := some s.now } := by
    rw [countSent_eq]; exact .quiet rfl rfl rfl rfl rfl rfl rfl rfl
  refine (h1.trans (refill_extends _)).trans ?_
  rw [onTransmissionEnd, pauseOrGap_eq]
  split <;> exact .quiet rfl rfl rfl rfl rfl rfl rfl rfl

theorem disarm_extends (s : State) (T : Timer) : Extends s (s.disarm T) := by
  cases T <;> exact .quiet rfl rfl rfl rfl rfl rfl rfl rfl

/-! ## What a body is when it raises no fatal error -/

theorem txEndBody_ok {s t : State} (h : txEndBody s = .ok t) :
    ∃ f, s.txState = .transmitting ∧ s.slot = some f ∧ t = onTransmissionEnd f s := by
  unfold txEndBody at h
  split at h
  · cases h
  · rename_i hx
    split at h
    · cases h
    · rename_i f hf
      cases h
      exact ⟨f, not_not.1 hx, hf, rfl⟩

theorem ifgEndBody_ok {s t : State} (h : ifgEndBody s = .ok t) : s.txState = .waitIfg ∧ beginSendFrames s = .ok t := by
  unfold ifgEndBody at h
  split at h
  · cases h
  · rename_i hx
    exact ⟨not_not.1 hx, h⟩

theorem pauseEndBody_ok {s t : State} (h : pauseEndBody s = .ok t) : s.txState = .paused ∧ beginSendFrames s = .ok t := by
  unfold pauseEndBody at h
  split at h
  · cases h
  · rename_i hx
    exact ⟨not_not.1 hx, h⟩

theorem loadSetup_extends (c : CfgRegs) (s : State) : Extends s (loadSetup c s) := .quiet rfl rfl rfl rfl rfl rfl rfl rfl

theorem setupBody_ok {s t : State} (h : setupBody s = .ok t) :
    validate s.overheadBytes s.cur.record = none ∧
      t = match s.cur.record.queueMode with
        | .internal => loadSetup s.cur.record s
        | .external => { loadSetup s.cur.record s with pullPending := true, out := s.out ++ [⟨s.now, .pull⟩] } := by
  cases hv : validate s.overheadBytes s.cur.record with
  | none => rw [setupBody_legal hv] at h; cases h; exact ⟨rfl, rfl⟩
  | some c => rw [setupBody_illegal hv] at h; cases h

/-- No body moves time, the mark, the environment's list or the model's own fields, and it only appends to the trace. -/
theorem bodyOf_extends {i : Instr} {s t : State} (h : bodyOf i s = .ok t) : Extends s t := by
  cases i <;> simp only [bodyOf] at h
  case submitData o => exact submitBody_extends h
  case submitPause o => exact submitBody_extends h
  case submitFiller o => cases h; exact .refl s
  case rxData o => cases h; exact rxDataBody_extends ..
  case rxPause o => cases h; exact rxPauseBody_extends ..
  case rxFiller o => cases h; exact .refl s
  case txEnd =>
    obtain ⟨f, -, -, rfl⟩ := txEndBody_ok h
    exact (disarm_extends ..).trans (onTransmissionEnd_extends ..)
  case ifgEnd => exact (disarm_extends ..).trans (beginSendFrames_extends (ifgEndBody_ok h).2)
  case pauseEnd => exact (disarm_extends ..).trans (beginSendFrames_extends (pauseEndBody_ok h).2)
  case setAdmin d =>
    rcases setAdminBody_cases d s with ⟨-, e⟩ | ⟨-, -, -, e⟩ <;> rw [e] at h
    · cases h; exact .quiet rfl rfl rfl rfl rfl rfl rfl rfl
    · have h1 : Extends s { s with disabled := false } := .quiet rfl rfl rfl rfl rfl rfl rfl rfl
      exact (h1.trans (refill_extends _)).trans (beginSendFrames_extends h)
  case shutdown =>
    cases h
    unfold shutdownBody
    split
    · exact .one rfl rfl rfl rfl rfl rfl rfl rfl
    · exact .quiet rfl rfl rfl rfl rfl rfl rfl rfl
  case setup =>
    obtain ⟨-, rfl⟩ := setupBody_ok h
    split
    · exact loadSetup_extends ..
    · exact .one rfl rfl rfl rfl rfl rfl rfl rfl
  case reset =>
    cases h
    split
    · exact .one rfl rfl rfl rfl rfl rfl rfl rfl
    · exact .quiet rfl rfl rfl rfl rfl rfl rfl rfl

end Sys2Proof.Machine
end

