-- ==== Sys2Proof/Laws/Fetch.lean ====
section
/-!
SUPPORT. What the scheduler can do (60_exceptions.md R210 to R212): the candidates, the one it takes, and what taking it
leaves in the state.
-/

namespace Sys2Proof.Machine

/-! ## Candidates -/

theorem mem_armedTimer {s : State} {T : Timer} {c : Time × Choice} :
    c ∈ armedTimer s T ↔ s.timerAt T = some c.1 ∧ c.2 = .timer T := by
  unfold armedTimer
  split <;> rename_i h <;> simp [h, Prod.ext_iff, eq_comm]

theorem mem_armedTimers {s : State} {c : Time × Choice} :
    c ∈ armedTimers s ↔ s.phase = .run ∧ ∃ T, s.timerAt T = some c.1 ∧ c.2 = .timer T := by
  unfold armedTimers
  split
  · rename_i h
    simp only [List.mem_append, mem_armedTimer, h, true_and]
    constructor
    · rintro ((h | h) | h)
      · exact ⟨_, h⟩
      · exact ⟨_, h⟩
      · exact ⟨_, h⟩
    · rintro ⟨T, h⟩
      cases T
      · exact .inl (.inl h)
      · exact .inl (.inr h)
      · exact .inr h
  · rename_i h
    simp [h]

theorem mem_offered {s : State} {c : Time × Choice} :
    c ∈ offered s ↔ ∃ a rest, s.inbox = a :: rest ∧ c = (a.stamp, .arrival) := by
  unfold offered
  split <;> rename_i h <;> simp [h]

theorem mem_enabled {s : State} {c : Time × Choice} :
    c ∈ enabled s ↔ c ∈ offered s ++ armedTimers s ∧ ∀ d ∈ offered s ++ armedTimers s, c.1 ≤ d.1 := by
  rw [enabled, earliest, List.mem_filter, List.all_eq_true]
  simp only [decide_eq_true_eq]

/-! ## The choice -/

/-- The chosen event is enabled, and settling a tie changes only the model's own two fields. -/
theorem choose_some {s u : State} {c : Choice} (h : choose s = some (c, u)) :
    (∃ t, (t, c) ∈ enabled s) ∧ (u = s ∨ u = (drawTie s).2) := by
  unfold choose at h
  split at h
  · cases h
  · rename_i d hd
    cases h
    exact ⟨⟨d.1, by simp [hd]⟩, .inl rfl⟩
  · rename_i d e ds hd
    cases h
    refine ⟨?_, .inr rfl⟩
    have hlt : (drawTie s).1 % (ds.length + 2) < (d :: e :: ds).length := Nat.mod_lt _ (by simp)
    rw [List.getD_eq_getElem _ _ hlt]
    exact ⟨_, by rw [hd]; exact List.getElem_mem hlt⟩

theorem choose_none {s : State} (h : choose s = none) : enabled s = [] := by
  unfold choose at h
  split at h
  · assumption
  · cases h
  · cases h

/-- A single enabled candidate is the one taken. -/
theorem choose_single {s : State} {c : Time × Choice} (h : enabled s = [c]) : choose s = some (c.2, s) := by
  unfold choose
  rw [h]

/-- Settling a tie writes only `ties` and `tieDraws`. -/
theorem drawTie_snd (s : State) :
    (drawTie s).2 = { s with ties := s.ties.tail, tieDraws := (drawTie s).2.tieDraws } := by
  unfold drawTie
  split <;> rename_i h <;> simp [h]

end Sys2Proof.Machine
end

