-- ==== Sys2Proof/Laws/Launch.lean ====
section
/-!
SUPPORT. What no rule inside phase RUN changes: the phase itself, the connectivity and disable flags, the address, the
setup time, the fault register and the configuration (10_state.md R22, R29, R30, R32, R33, R36, R37).
-/

namespace Sys2Proof.Machine

/-- Two states of one launch, by the registers only SETUP, RESET, SHUTDOWN and SET_ADMIN write. -/
structure SameLaunch (s t : State) : Prop where
  phase : t.phase = s.phase
  connected : t.connected = s.connected
  disabled : t.disabled = s.disabled
  address : t.address = s.address
  tSetup : t.tSetup = s.tSetup
  fault : t.fault = s.fault
  cfg : t.cfg = s.cfg

namespace SameLaunch

theorem refl (s : State) : SameLaunch s s := ⟨rfl, rfl, rfl, rfl, rfl, rfl, rfl⟩

theorem trans {s t u : State} (h : SameLaunch s t) (k : SameLaunch t u) : SameLaunch s u :=
  ⟨k.phase.trans h.phase, k.connected.trans h.connected, k.disabled.trans h.disabled, k.address.trans h.address,
    k.tSetup.trans h.tSetup, k.fault.trans h.fault, k.cfg.trans h.cfg⟩

end SameLaunch

theorem refill_sameLaunch (s : State) : SameLaunch s (refill s) := by
  rcases refill_cases s with ⟨h, -⟩ | ⟨f, rest, -, -, -, h⟩ | ⟨-, -, -, h⟩ <;> rw [h] <;>
    exact ⟨rfl, rfl, rfl, rfl, rfl, rfl, rfl⟩

theorem drained_sameLaunch (s : State) : SameLaunch s (drained s) := by
  unfold drained
  split <;> exact ⟨rfl, rfl, rfl, rfl, rfl, rfl, rfl⟩

theorem beginSendFrames_sameLaunch {s t : State} (h : beginSendFrames s = .ok t) : SameLaunch s t := by
  rcases beginSendFrames_cases s with ⟨-, e⟩ | ⟨-, -, e⟩ | ⟨f, -, -, -, e⟩ | ⟨f, -, -, -, e⟩ <;> rw [e] at h <;>
    cases h
  · exact .refl s
  · exact ⟨rfl, rfl, rfl, rfl, rfl, rfl, rfl⟩
  · exact ⟨rfl, rfl, rfl, rfl, rfl, rfl, rfl⟩
  · exact drained_sameLaunch s

theorem dropAtGate_sameLaunch (s : State) : SameLaunch s (dropAtGate s) := by
  cases hm : s.cfg.queueMode with
  | internal => rw [dropAtGate_internal hm]; exact ⟨rfl, rfl, rfl, rfl, rfl, rfl, rfl⟩
  | external =>
    cases hs : s.slot with
    | none => rw [dropAtGate_external_empty hm hs]; exact ⟨rfl, rfl, rfl, rfl, rfl, rfl, rfl⟩
    | some f => rw [dropAtGate_external_staged hm (by simp [hs])]; exact ⟨rfl, rfl, rfl, rfl, rfl, rfl, rfl⟩

theorem admit_sameLaunch {s t : State} {g : Frame} (h : admission g s = .ok t) : SameLaunch s t := by
  rcases admit_ok_cases h with ⟨-, -, e⟩ | ⟨-, -, -, e⟩ | ⟨-, -, -, -, e⟩ | ⟨f, rest, -, -, -, -, e⟩ | ⟨-, -, e⟩ <;>
    rw [e] <;> exact ⟨rfl, rfl, rfl, rfl, rfl, rfl, rfl⟩

theorem startIfIdle_sameLaunch {s t : State} (h : startIfIdle s = .ok t) : SameLaunch s t := by
  by_cases hi : s.txState = .idle
  · exact beginSendFrames_sameLaunch (startIfIdle_idle hi ▸ h)
  · rw [startIfIdle_busy hi] at h; cases h; exact .refl s

theorem addTo_sameLaunch (s : State) (c : Ctr) (n : Nat) : SameLaunch s (s.addTo c n) :=
  ⟨rfl, rfl, rfl, rfl, rfl, rfl, rfl⟩

theorem submitBody_sameLaunch {s t : State} {f : Frame} (h : submitBody f s = .ok t) : SameLaunch s t := by
  obtain ⟨-, -, ⟨-, rfl⟩ | ⟨-, u, ha, hs⟩⟩ := submitBody_ok_cases h
  · exact (addTo_sameLaunch ..).trans (dropAtGate_sameLaunch _)
  · exact ((addTo_sameLaunch ..).trans (admit_sameLaunch ha)).trans (startIfIdle_sameLaunch hs)

theorem processPauseCommand_sameLaunch (u : Half) (s : State) : SameLaunch s (processPauseCommand u s) := by
  rw [processPauseCommand_eq]
  split
  · split <;> exact ⟨rfl, rfl, rfl, rfl, rfl, rfl, rfl⟩
  all_goals exact ⟨rfl, rfl, rfl, rfl, rfl, rfl, rfl⟩

theorem rxDataBody_sameLaunch (f : Frame) (s : State) : SameLaunch s (rxDataBody f s) := by
  rcases rxDataBody_cases f s with ⟨-, e⟩ | ⟨-, -, -, e⟩ | ⟨-, -, -, e⟩ | ⟨-, -, -, e⟩ | ⟨-, -, -, e⟩ <;> rw [e]
  · exact addTo_sameLaunch ..
  · exact addTo_sameLaunch ..
  · exact addTo_sameLaunch ..
  · exact .refl s
  · rw [deliverData_eq]; exact ⟨rfl, rfl, rfl, rfl, rfl, rfl, rfl⟩

theorem rxPauseBody_sameLaunch (f : Frame) (s : State) : SameLaunch s (rxPauseBody f s) := by
  rcases rxPauseBody_cases f s with ⟨-, e⟩ | ⟨-, -, e⟩ | ⟨-, -, -, e⟩ <;> rw [e]
  · exact addTo_sameLaunch ..
  · exact .refl s
  · exact ((addTo_sameLaunch ..).trans (addTo_sameLaunch ..)).trans (processPauseCommand_sameLaunch ..)

theorem pauseOrGap_sameLaunch (s : State) : SameLaunch s (pauseOrGap s) := by
  rw [pauseOrGap_eq]
  split <;> exact ⟨rfl, rfl, rfl, rfl, rfl, rfl, rfl⟩

theorem onTransmissionEnd_sameLaunch (f : Frame) (s : State) : SameLaunch s (onTransmissionEnd f s) := by
  have h1 : SameLaunch s { countSent f s with slot := none, lastTxFinishTime := some s.now } := by
    rw [countSent_eq]; exact ⟨rfl, rfl, rfl, rfl, rfl, rfl, rfl⟩
  unfold onTransmissionEnd
  exact (h1.trans (refill_sameLaunch _)).trans (pauseOrGap_sameLaunch _)

theorem disarm_sameLaunch (s : State) (T : Timer) : SameLaunch s (s.disarm T) := by
  cases T <;> exact ⟨rfl, rfl, rfl, rfl, rfl, rfl, rfl⟩

/-- The rules of the frames and of the timers stay within the launch. -/
theorem bodyOf_sameLaunch {i : Instr} {s t : State} (h : bodyOf i s = .ok t)
    (hi : i ≠ .setup ∧ i ≠ .reset ∧ i ≠ .shutdown ∧ ∀ d, i ≠ .setAdmin d) : SameLaunch s t := by
  cases i <;> simp only [bodyOf] at h
  case submitData o => exact submitBody_sameLaunch h
  case submitPause o => exact submitBody_sameLaunch h
  case submitFiller o => cases h; exact .refl s
  case rxData o => cases h; exact rxDataBody_sameLaunch ..
  case rxPause o => cases h; exact rxPauseBody_sameLaunch ..
  case rxFiller o => cases h; exact .refl s
  case txEnd =>
    obtain ⟨f, -, -, rfl⟩ := txEndBody_ok h
    exact (disarm_sameLaunch ..).trans (onTransmissionEnd_sameLaunch ..)
  case ifgEnd => exact (disarm_sameLaunch ..).trans (beginSendFrames_sameLaunch (ifgEndBody_ok h).2)
  case pauseEnd => exact (disarm_sameLaunch ..).trans (beginSendFrames_sameLaunch (pauseEndBody_ok h).2)
  case setAdmin d => exact absurd rfl (hi.2.2.2 d)
  case shutdown => exact absurd rfl hi.2.2.1
  case setup => exact absurd rfl hi.1
  case reset => exact absurd rfl hi.2.1

/-- SET_ADMIN stays within the launch but for the flag it writes (R193). -/
theorem setAdminBody_sameLaunch {d : Bool} {s t : State} (h : setAdminBody d s = .ok t) :
    SameLaunch { s with disabled := d } t := by
  rcases setAdminBody_cases d s with ⟨-, e⟩ | ⟨-, rfl, -, e⟩ <;> rw [e] at h
  · cases h; exact .refl _
  · exact (refill_sameLaunch _).trans (beginSendFrames_sameLaunch h)

/-- The phase an accepted event leaves when it raises no fatal error (R220). -/
def phaseAfter : Instr → Phase → Phase
  | .setup, _ => .run
  | .reset, _ => .uninit
  | .shutdown, _ => .stopped
  | _, p => p

theorem bodyOf_phase {i : Instr} {s t : State} (h : bodyOf i s = .ok t) : t.phase = phaseAfter i s.phase := by
  cases i
  case setup =>
    obtain ⟨-, ht⟩ := setupBody_ok h
    rw [ht]
    split <;> rfl
  case reset =>
    cases h
    rfl
  case shutdown =>
    cases h
    rfl
  case setAdmin d => exact (setAdminBody_sameLaunch h).phase
  all_goals exact (bodyOf_sameLaunch h (by simp)).phase

end Sys2Proof.Machine
end

