-- ==== Sys2Proof/Laws/Invariant.lean ====
section
/-!
SUPPORT. Small lemmas about the invariant of phase RUN (10_state.md R44): which fields it reads, what it says of the
timers in each protocol state, and that an event in order keeps it when only time moves.
-/

namespace Sys2Proof.Machine

namespace RunInv

/-- The invariant reads only these fields. -/
theorem same {s t : State} (h : RunInv s) (h1 : t.overheadBytes = s.overheadBytes) (h2 : t.cfg = s.cfg)
    (h3 : t.txState = s.txState) (h4 : t.txEndAt = s.txEndAt) (h5 : t.ifgEndAt = s.ifgEndAt)
    (h6 : t.pauseEndAt = s.pauseEndAt) (h7 : t.slot = s.slot) (h8 : t.queue = s.queue)
    (h9 : t.pullPending = s.pullPending) (h10 : t.connected = s.connected) (h11 : t.now = s.now) : RunInv t where
  legal := by rw [h1, h2]; exact h.legal
  txTimer := by rw [h3, h4]; exact h.txTimer
  ifgTimer := by rw [h3, h5]; exact h.ifgTimer
  pauseTimer := by rw [h3, h6]; exact h.pauseTimer
  inFlight := by rw [h3, h7]; exact h.inFlight
  idleEmpty := by rw [h3, h7, h8]; exact h.idleEmpty
  internal := by rw [h2, h7, h8, h9]; exact h.internal
  external := by rw [h2, h7, h8, h9]; exact h.external
  frames := by rw [h2, heldFrames, h7, h8]; exact h.frames
  gated := by rw [h10, h7, h8, h3]; exact h.gated
  future := by
    intro T te hT
    rw [h11]
    refine h.future T te ?_
    rw [← hT]
    cases T <;> simp [State.timerAt, h4, h5, h6]

theorem txEndAt_none {s : State} (h : RunInv s) (hx : s.txState ≠ .transmitting) : s.txEndAt = none :=
  not_not.1 fun hc => hx (h.txTimer.2 hc)

theorem ifgEndAt_none {s : State} (h : RunInv s) (hx : s.txState ≠ .waitIfg) : s.ifgEndAt = none :=
  not_not.1 fun hc => hx (h.ifgTimer.2 hc)

theorem pauseEndAt_none {s : State} (h : RunInv s) (hx : s.txState ≠ .paused) : s.pauseEndAt = none :=
  not_not.1 fun hc => hx (h.pauseTimer.2 hc)

/-- A legal configuration has a line rate to divide by. -/
theorem lineRate_ne {s : State} (h : RunInv s) : s.cfg.lineRate ≠ 0 := (validate_none h.legal).2.2.1

/-- An event whose stamp passes no armed timer keeps the invariant as time moves to it. -/
theorem arrive {s : State} (h : RunInv s) (hf : ∀ T te, s.timerAt T = some te → s.cur.stamp ≤ te) :
    RunInv s.arrive where
  legal := h.legal
  txTimer := h.txTimer
  ifgTimer := h.ifgTimer
  pauseTimer := h.pauseTimer
  inFlight := h.inFlight
  idleEmpty := h.idleEmpty
  internal := h.internal
  external := h.external
  frames := h.frames
  gated := h.gated
  future := fun T te hT => hf T te (by rw [← hT]; cases T <;> rfl)

end RunInv

end Sys2Proof.Machine
end

