-- ==== Sys2Proof/Laws/PerInstr.lean ====
section
/-!
SUPPORT. Per instruction: the word the encoder writes is one of the row of spec/opcode_table.json that stands for it
(30_encoding.md R94): under the row's mask it is the row's match, on bits [15:0].
-/

namespace Sys2Proof.Laws.TableRow

/-- The "mask" of each row of spec/opcode_table.json. -/
def mask : Instr → Nat
  | .submitData _ => 0xFE6F
  | .submitPause _ => 0xFE6F
  | .submitFiller _ => 0xFE6F
  | .rxData _ => 0xFE6F
  | .rxPause _ => 0xFE6F
  | .rxFiller _ => 0xFE6F
  | .txEnd => 0xFE0F
  | .ifgEnd => 0xFE0F
  | .pauseEnd => 0xFE0F
  | .setAdmin _ => 0xFE0F
  | .shutdown => 0xFE0F
  | .setup => 0xFE0F
  | .reset => 0xFE0F

/-- The "match" of each row. -/
def rowMatch : Instr → Nat
  | .submitData _ => 0x0001
  | .submitPause _ => 0x0021
  | .submitFiller _ => 0x0041
  | .rxData _ => 0x0002
  | .rxPause _ => 0x0022
  | .rxFiller _ => 0x0042
  | .txEnd => 0x0003
  | .ifgEnd => 0x0004
  | .pauseEnd => 0x0005
  | .setAdmin _ => 0x0006
  | .shutdown => 0x0007
  | .setup => 0x0008
  | .reset => 0x0009

/-- The encoded word matches the instruction's row. -/
def Statement (i : Instr) : Prop := (encode i).toNat &&& mask i = rowMatch i

/-- The part of a word below bit 16 is the sum of its seven low fields; the rest is no part of the match. -/
theorem and_low (src dst : Mac) (p w l : Half) (s e : Bool) (k : BitVec 2) (a : Bool) (ev : BitVec 4) (m : Nat)
    (hm : m < 65536) :
    (packWord src dst p w l 0 s e k a ev).toNat &&& m =
      (s.toNat * 2 ^ 8 + e.toNat * 2 ^ 7 + k.toNat * 2 ^ 5 + a.toNat * 2 ^ 4 + ev.toNat) &&& m := by
  have := ev.isLt; have := a.toNat_lt; have := k.isLt; have := e.toNat_lt; have := s.toNat_lt
  have hsplit : ∀ n : Nat, n &&& m = (n % 2 ^ 16) &&& m := fun n => by
    apply Nat.eq_of_testBit_eq
    intro i
    simp only [Nat.testBit_and, Nat.testBit_mod_two_pow]
    by_cases hi : i < 16
    · simp [hi]
    · rw [Nat.testBit_lt_two_pow (x := m) (Nat.lt_of_lt_of_le hm (Nat.pow_le_pow_right (n := 2) (by decide) (Nat.not_lt.1 hi)))]
      simp
  have h0 : (0 : BitVec 7).toNat = 0 := rfl
  rw [hsplit, packWord_toNat, h0]
  congr 1
  omega

theorem submitData (o : SubmitOperands) : Statement (.submitData o) := by
  simp only [Statement, encode, encodeSubmit, mask, rowMatch]
  rw [and_low _ _ _ _ _ _ _ _ _ _ _ (by decide)]
  cases o.srcValid <;> decide

theorem submitPause (o : SubmitOperands) : Statement (.submitPause o) := by
  simp only [Statement, encode, encodeSubmit, mask, rowMatch]
  rw [and_low _ _ _ _ _ _ _ _ _ _ _ (by decide)]
  cases o.srcValid <;> decide

theorem submitFiller (o : SubmitOperands) : Statement (.submitFiller o) := by
  simp only [Statement, encode, encodeSubmit, mask, rowMatch]
  rw [and_low _ _ _ _ _ _ _ _ _ _ _ (by decide)]
  cases o.srcValid <;> decide

theorem rxData (o : RxOperands) : Statement (.rxData o) := by
  simp only [Statement, encode, encodeRx, mask, rowMatch]
  rw [and_low _ _ _ _ _ _ _ _ _ _ _ (by decide)]
  cases o.srcValid <;> cases o.err <;> decide

theorem rxPause (o : RxOperands) : Statement (.rxPause o) := by
  simp only [Statement, encode, encodeRx, mask, rowMatch]
  rw [and_low _ _ _ _ _ _ _ _ _ _ _ (by decide)]
  cases o.srcValid <;> cases o.err <;> decide

theorem rxFiller (o : RxOperands) : Statement (.rxFiller o) := by
  simp only [Statement, encode, encodeRx, mask, rowMatch]
  rw [and_low _ _ _ _ _ _ _ _ _ _ _ (by decide)]
  cases o.srcValid <;> cases o.err <;> decide

theorem txEnd : Statement .txEnd := by unfold Statement; decide
theorem ifgEnd : Statement .ifgEnd := by unfold Statement; decide
theorem pauseEnd : Statement .pauseEnd := by unfold Statement; decide
theorem setAdmin (disable : Bool) : Statement (.setAdmin disable) := by unfold Statement; cases disable <;> decide
theorem shutdown : Statement .shutdown := by unfold Statement; decide
theorem setup : Statement .setup := by unfold Statement; decide
theorem reset : Statement .reset := by unfold Statement; decide

end Sys2Proof.Laws.TableRow
end

