-- ==== Sys2Proof/Laws/Step.lean ====
section
/-!
SUPPORT. What one step can do (20_memory.md R66; 60_exceptions.md R210 to R212): wait, take the first event offered, or
fire a timer; and what it does with a word placed for it.
-/

namespace Sys2Proof.Machine

/-! ## The candidates a step takes -/

theorem mem_candidates {s : State} {c : Time × Choice} :
    c ∈ offered s ++ armedTimers s ↔
      (∃ a rest, s.inbox = a :: rest ∧ c = (a.stamp, .arrival)) ∨
        (s.phase = .run ∧ ∃ T, s.timerAt T = some c.1 ∧ c.2 = .timer T) := by
  rw [List.mem_append, mem_offered, mem_armedTimers]

/-- An enabled arrival is the head of what is offered, no later than any timer that can fire. -/
theorem enabled_arrival {s : State} {t : Time} (h : (t, .arrival) ∈ enabled s) :
    ∃ a rest, s.inbox = a :: rest ∧ t = a.stamp ∧
      (s.phase = .run → ∀ T te, s.timerAt T = some te → a.stamp ≤ te) := by
  obtain ⟨hm, hl⟩ := mem_enabled.1 h
  rcases mem_candidates.1 hm with ⟨a, rest, hi, he⟩ | ⟨_, T, _, he⟩
  · refine ⟨a, rest, hi, by simpa using he, fun hr T te ht => ?_⟩
    have := hl (te, .timer T) (mem_candidates.2 (.inr ⟨hr, T, ht, rfl⟩))
    simp at he
    simpa [he] using this
  · cases he

/-- An enabled timer is armed in RUN, and expires no later than any other and than the first event offered. -/
theorem enabled_timer {s : State} {t : Time} {T : Timer} (h : (t, .timer T) ∈ enabled s) :
    s.phase = .run ∧ s.timerAt T = some t ∧ (∀ T' te, s.timerAt T' = some te → t ≤ te) ∧
      ∀ a ∈ s.inbox.head?, t ≤ a.stamp := by
  obtain ⟨hm, hl⟩ := mem_enabled.1 h
  rcases mem_candidates.1 hm with ⟨_, _, _, he⟩ | ⟨hr, T', ht, he⟩
  · cases he
  · cases he
    refine ⟨hr, ht, fun T' te ht' => hl (te, .timer T') (mem_candidates.2 (.inr ⟨hr, T', ht', rfl⟩)), ?_⟩
    cases hi : s.inbox with
    | nil => simp
    | cons a rest => simpa using hl (a.stamp, .arrival) (mem_candidates.2 (.inl ⟨a, rest, hi, rfl⟩))

/-- With no candidate nothing is offered and no timer can fire. -/
theorem enabled_nil {s : State} (h : enabled s = []) :
    s.inbox = [] ∧ (s.phase = .run → ∀ T, s.timerAt T = none) := by
  have hc : offered s ++ armedTimers s = [] := by
    by_contra hne
    obtain ⟨c, hm, hl⟩ := Set.exists_min_image {c | c ∈ offered s ++ armedTimers s} Prod.fst (List.finite_toSet _)
      (List.exists_mem_of_ne_nil _ hne)
    exact absurd (mem_enabled.2 ⟨hm, hl⟩) (by simp [h])
  constructor
  · cases hi : s.inbox with
    | nil => rfl
    | cons a rest => exact absurd (mem_candidates.2 (.inl ⟨a, rest, hi, rfl⟩)) (by simp [hc])
  · intro hr T
    cases ht : s.timerAt T with
    | none => rfl
    | some t => exact absurd (mem_candidates (c := (t, .timer T)).2 (.inr ⟨hr, T, ht, rfl⟩)) (by simp [hc])

/-- A candidate strictly earlier than all the others is the one left. -/
theorem earliest_single (front back : List (Time × Choice)) (c : Time × Choice)
    (h : ∀ d ∈ front ++ back, c.1 < d.1) : earliest (front ++ c :: back) = [c] := by
  have hno : ∀ d ∈ front ++ back, ¬ (front ++ c :: back).all (fun e => decide (d.1 ≤ e.1)) = true := fun d hd ha =>
    absurd (of_decide_eq_true (List.all_eq_true.1 ha c (by simp))) (not_le.2 (h d hd))
  have hc : (front ++ c :: back).all (fun e => decide (c.1 ≤ e.1)) = true := by
    simp only [List.all_eq_true, List.mem_append, List.mem_cons, decide_eq_true_eq]
    rintro d (hd | rfl | hd)
    · exact (h d (by simp [hd])).le
    · exact le_refl _
    · exact (h d (by simp [hd])).le
  rw [earliest, List.filter_append, List.filter_cons, if_pos hc,
    List.filter_eq_nil_iff.2 fun d hd => hno d (by simp [hd]), List.filter_eq_nil_iff.2 fun d hd => hno d (by simp [hd])]
  rfl

/-- An arrival strictly earlier than every timer that can fire is the one candidate. -/
theorem enabled_headFirst {s : State} {a : Arrival} {rest : List Arrival} (h : HeadFirst s a rest) :
    enabled s = [(a.stamp, .arrival)] := by
  obtain ⟨hi, hT⟩ := h
  have hoff : offered s = [(a.stamp, .arrival)] := by simp [offered, hi]
  rw [enabled, hoff]
  refine earliest_single [] _ _ fun c hc => ?_
  obtain ⟨hr, T, ht, _⟩ := mem_armedTimers.1 (by simpa using hc)
  exact hT hr T c.1 ht

/-- A timer strictly earlier than every other candidate is the one candidate. -/
theorem enabled_timerFirst {s : State} {T : Timer} {te : Time} (h : TimerFirst s T te) :
    enabled s = [(te, .timer T)] := by
  obtain ⟨hr, ht, hT, ha⟩ := h
  have hself : armedTimer s T = [(te, .timer T)] := by simp [armedTimer, ht]
  have hoff : ∀ c ∈ offered s, te < c.1 := fun c hc => by
    obtain ⟨a, rest, hi, rfl⟩ := mem_offered.1 hc
    exact ha a (by simp [hi])
  have hother : ∀ T', T' ≠ T → ∀ c ∈ armedTimer s T', te < c.1 := fun T' h c hc => hT T' c.1 h (mem_armedTimer.1 hc).1
  unfold enabled armedTimers
  rw [if_pos hr]
  cases T <;> rw [hself]
  · rw [List.append_assoc, List.singleton_append]
    refine earliest_single _ _ _ fun c hc => ?_
    simp only [List.mem_append] at hc
    rcases hc with hc | hc | hc
    exacts [hoff c hc, hother _ (by decide) c hc, hother _ (by decide) c hc]
  · rw [List.append_assoc, List.singleton_append, ← List.append_assoc]
    refine earliest_single _ _ _ fun c hc => ?_
    simp only [List.mem_append] at hc
    rcases hc with (hc | hc) | hc
    exacts [hoff c hc, hother _ (by decide) c hc, hother _ (by decide) c hc]
  · rw [← List.append_assoc]
    refine earliest_single _ [] _ fun c hc => ?_
    simp only [List.mem_append] at hc
    rcases hc with (hc | hc | hc) | hc
    exacts [hoff c hc, hother _ (by decide) c hc, hother _ (by decide) c hc, absurd hc (by simp)]

/-- Everything a step can do: wait; take the first event offered, or refuse it; or fire a timer. Settling a tie writes
only `ties` and `tieDraws`. -/
theorem step_cases (s : State) :
    (enabled s = [] ∧ step s = .next s) ∨
    (∃ a rest x y, s.inbox = a :: rest ∧ (s.phase = .run → ∀ T te, s.timerAt T = some te → a.stamp ≤ te) ∧
      ((∃ i, decode a.word = .ok i ∧
          step s = exec i { s with inbox := rest, cur := a.delivery, ties := x, tieDraws := y }) ∨
        ∃ e, decode a.word = .error e ∧
          step s = .next { s with inbox := rest, cur := a.delivery, ties := x, tieDraws := y, refused := true })) ∨
    (∃ T te x y, s.phase = .run ∧ s.timerAt T = some te ∧ (∀ T' te', s.timerAt T' = some te' → te ≤ te') ∧
      (∀ a ∈ s.inbox.head?, te ≤ a.stamp) ∧
      step s = exec T.event { s with cur := { s.cur with source := .timer, stamp := te }, ties := x, tieDraws := y }) := by
  unfold step fetch
  cases hc : choose s with
  | none => exact .inl ⟨choose_none hc, rfl⟩
  | some p =>
    obtain ⟨c, u⟩ := p
    obtain ⟨⟨t, he⟩, hu⟩ := choose_some hc
    obtain ⟨x, y, rfl⟩ : ∃ x y, u = { s with ties := x, tieDraws := y } := by
      rcases hu with rfl | rfl
      · exact ⟨u.ties, u.tieDraws, rfl⟩
      · exact ⟨_, _, drawTie_snd s⟩
    cases c with
    | arrival =>
      obtain ⟨a, rest, hi, -, hT⟩ := enabled_arrival he
      refine .inr (.inl ⟨a, rest, x, y, hi, hT, ?_⟩)
      cases hd : decode a.word with
      | ok i => exact .inl ⟨i, rfl, by simp [take, hi, hd]⟩
      | error e => exact .inr ⟨e, rfl, by simp [take, hi, hd, State.refuse]⟩
    | timer T =>
      obtain ⟨hr, ht, hT, ha⟩ := enabled_timer he
      have ht' : State.timerAt { s with ties := x, tieDraws := y } T = some t := by rw [← ht]; cases T <;> rfl
      exact .inr (.inr ⟨T, t, x, y, hr, ht, hT, ha, by simp [take, ht']⟩)

/-! ## A word placed for the next step -/

/-- The running least of a list of stamps is below its start and below each stamp. -/
theorem foldl_least (cs : List (Time × Choice)) :
    ∀ m : Time, (cs.foldl (fun m c => if c.1 ≤ m then c.1 else m) m ≤ m) ∧
      ∀ c ∈ cs, cs.foldl (fun m c => if c.1 ≤ m then c.1 else m) m ≤ c.1 := by
  induction cs with
  | nil => intro m; simp
  | cons d ds ih =>
    intro m
    simp only [List.foldl_cons, List.mem_cons, forall_eq_or_imp]
    split
    · rename_i h
      exact ⟨(ih d.1).1.trans h, (ih d.1).1, (ih d.1).2⟩
    · rename_i h
      exact ⟨(ih m).1, (ih m).1.trans (le_of_not_ge h), (ih m).2⟩

/-- The next step runs the placed word's event, in the state as it was but for what travels beside the word. -/
theorem step_withFetchWord {s : State} {nbits w : Nat} {i : Instr} (h : decodeTableWord nbits w = some i) :
    step (s.withFetchWord nbits w) =
      exec i { s with cur := { source := .environment, stamp := earliestStamp s, payload := ⟨0⟩, record := CfgRegs.zero,
                               conn := false, alloc := 0 } } := by
  have hd : decode (tableWord nbits w) = .ok i := by
    unfold decodeTableWord at h
    split at h
    · rename_i hd; cases h; exact hd
    · cases h
  set t := earliestStamp s with ht
  have hle : ∀ c ∈ armedTimers s, t ≤ c.1 := (foldl_least (armedTimers s) s.now).2
  have henab : enabled (s.withFetchWord nbits w) =
      (t, .arrival) :: (armedTimers s).filter fun c => decide (c.1 = t) := by
    have harm : offered (s.withFetchWord nbits w) ++ armedTimers (s.withFetchWord nbits w) =
        (t, .arrival) :: armedTimers s := rfl
    rw [enabled, earliest, harm, List.filter_cons, if_pos]
    · congr 1
      refine List.filter_congr fun c hc => ?_
      rw [Bool.eq_iff_iff, List.all_eq_true, decide_eq_true_eq]
      constructor
      · intro ha
        exact le_antisymm (of_decide_eq_true (ha (t, .arrival) (by simp))) (hle c hc)
      · intro hct d hd
        rw [decide_eq_true_eq, hct]
        rcases List.mem_cons.1 hd with rfl | hd
        · exact le_refl _
        · exact hle d hd
    · simpa using fun t' x hc => hle (t', x) hc
  have hties : (s.withFetchWord nbits w).ties =
      if (armedTimers s).any (fun c => decide (c.1 = t)) then 0 :: s.ties else s.ties := rfl
  cases hf : (armedTimers s).filter fun c => decide (c.1 = t) with
  | nil =>
    have hany : (armedTimers s).any (fun c => decide (c.1 = t)) = false := by
      rw [List.any_eq_false]
      exact List.filter_eq_nil_iff.1 hf
    rw [hany] at hties
    rw [hf] at henab
    rw [step, fetch, choose, henab]
    simp only [take, State.withFetchWord, placeWord, hd, Arrival.delivery]
    rw [State.withFetchWord, placeWord] at hties
    simp only at hties
    rw [← ht] at hties ⊢
    simp only [hany]
    rfl
  | cons d ds =>
    have hany : (armedTimers s).any (fun c => decide (c.1 = t)) = true := by
      rw [List.any_eq_true]
      have := List.mem_filter.1 (by rw [hf]; exact List.mem_cons_self : d ∈ (armedTimers s).filter fun c => decide (c.1 = t))
      exact ⟨d, this⟩
    rw [hany] at hties
    rw [hf] at henab
    rw [step, fetch, choose, henab]
    simp only [drawTie, hties, if_true, Nat.zero_mod, List.getD_cons_zero]
    simp only [take, State.withFetchWord, placeWord, hd, Arrival.delivery, ← ht]

end Sys2Proof.Machine
end

