-- ==== Sys2Proof/Tests/Slice0.lean ====
section
/-!
SUPPORT. The model's own tests. Expected results come from spec/95_test_vectors.md (the vector or program is named at
each test), from the field table of 30_encoding.md R80, or from a rule of spec/. The third part holds, for every
statement with hypotheses, a named witness that meets them.
-/

namespace Sys2Proof.Tests

open Sys2Proof Sys2Proof.Machine

/-! ## Fixtures (95_test_vectors.md, "Common launch") -/

def me : Mac := 0x020000000001
def peer : Mac := 0x020000000002
def other : Mac := 0x020000000003
def bc : Mac := 0xffffffffffff
def pa : Mac := 0x0180c2000001

/-- A time in hundredths of a microsecond, the grain of the vectors' times. -/
def us (n : Nat) : Time := mkRat n 100000000

/-- The registers of the `Std` record. -/
def stdCfg : CfgRegs := ⟨0x020000000001, 0x2, 0x5f5e100, 0x40, 0x5ee, 0x60, 0x200, 0x4⟩

/-- The block after SETUP `Std` at 0. -/
def stdRun : State :=
  { State.reset with phase := .run, cfg := stdCfg, connected := true, address := me }

/-- A DATA frame to the peer as the block holds it. -/
def frameTo (len : Half) : Frame := ⟨.data, peer, me, true, len, 0, 0, false, ⟨0⟩⟩

/-- `Std`, a 64-byte frame in flight since 0. -/
def stdTx : State :=
  { stdRun with txState := .transmitting, slot := some (frameTo 64), txEndAt := some (us 576) }

/-- `Std`, in the gap after that frame. -/
def stdIfg : State := { stdRun with now := us 576, txState := .waitIfg, ifgEndAt := some (us 672) }

/-- `Std`, paused at 0 for 10 units. -/
def stdPaused : State := { stdRun with txState := .paused, pauseEndAt := some (us 5120) }

/-- `Std` in EXTERNAL mode, its first pull outstanding. -/
def stdExt : State := { stdRun with cfg := { stdCfg with cfgMode := 0x6 }, pullPending := true }

/-- An event of the environment. -/
def arrival (w : EventWord) (t : Time) : Arrival := ⟨w, t, ⟨0⟩, CfgRegs.zero, false, 0⟩

/-- A SETUP of the environment at 0. -/
def setupArrival (c : CfgRegs) (conn : Bool) (alloc : Mac) : Arrival := ⟨0x0008, 0, ⟨0⟩, c, conn, alloc⟩

/-- A state with one event offered. -/
def offer (s : State) (a : Arrival) : State := { s with inbox := [a] }

/-- The state in which an event of the environment with stamp `t` is handled. -/
def atTime (s : State) (t : Time) : State := { s with cur := { s.cur with stamp := t } }

/-- The state in which a timer's event with stamp `t` is handled. -/
def byTimer (s : State) (t : Time) : State := { s with cur := { s.cur with source := .timer, stamp := t } }

/-- A check on the state one step leads to. -/
def after (s : State) (p : State → Bool) : Bool :=
  match step s with
  | .next t => p t
  | .fault _ => false
  | .refused _ => false

/-- SUBMIT DATA to the peer with `len` bytes. -/
def submitTo (len : Nat) : SubmitOperands := ⟨false, 0, peer, len, 0⟩

/-- RX from the peer to the station with wire length `w`. -/
def rxFrom (w : Nat) : RxOperands := ⟨false, true, peer, me, 0, w, 0⟩

/-- RX of a PAUSE of `u` units from the peer. -/
def rxPauseOf (u : Nat) : RxOperands := ⟨false, true, peer, pa, 64, 72, u⟩

/-! ## WellFormed: one ill-formed term for each check (R84) -/

theorem test_wf_submit_len : (Instr.submitData ⟨false, 0, 0, 65536, 0⟩).wellFormed = false := by decide
theorem test_wf_submit_pause : (Instr.submitPause ⟨false, 0, 0, 0, 65536⟩).wellFormed = false := by decide
theorem test_wf_rx_len : (Instr.rxData ⟨false, false, 0, 0, 65536, 0, 0⟩).wellFormed = false := by decide
theorem test_wf_rx_wireLen : (Instr.rxPause ⟨false, false, 0, 0, 0, 65536, 0⟩).wellFormed = false := by decide
theorem test_wf_rx_pause : (Instr.rxFiller ⟨false, false, 0, 0, 0, 0, 65536⟩).wellFormed = false := by decide
theorem test_wf_largest : (Instr.rxData ⟨true, true, bc, bc, 65535, 65535, 65535⟩).wellFormed = true := by decide

/-! ## Decoding: words written out from R80 and 95 section 2.1 -/

theorem test_decode_submitData :
    decode 0x000000000000ffffffffffff00000000002e0001 = .ok (.submitData ⟨false, 0, bc, 46, 0⟩) := by decide
theorem test_decode_submitData_ignores :
    decode 0x0000000000000000000000000000000000400091 = .ok (.submitData ⟨false, 0, 0, 64, 0⟩) := by decide
theorem test_decode_submitPause :
    decode 0x0000000000000180c20000010007000000000021 = .ok (.submitPause ⟨false, 0, pa, 0, 7⟩) := by decide
theorem test_decode_submitFiller : decode 0x0041 = .ok (.submitFiller ⟨false, 0, 0, 0, 0⟩) := by decide
/-- SRC 02-00-00-00-00-03 with S = 1, DST 02-00-00-00-00-02, L = 64: U10's event, bit by bit from R80. -/
theorem test_decode_submit_source :
    decode 0x0200000000030200000000020000000000400101 = .ok (.submitData ⟨true, other, peer, 64, 0⟩) := by decide
theorem test_decode_rxData :
    decode 0x0200000000020200000000010000004800400102 = .ok (.rxData ⟨false, true, peer, me, 64, 72, 0⟩) := by decide
theorem test_decode_rxData_error :
    decode 0x0200000000020200000000010000004800400182 = .ok (.rxData ⟨true, true, peer, me, 64, 72, 0⟩) := by decide
theorem test_decode_rxPause :
    decode 0x0200000000020180c2000001000a004800400122 = .ok (.rxPause ⟨false, true, peer, pa, 64, 72, 10⟩) := by
  decide
theorem test_decode_rxFiller :
    decode 0x0200000000020200000000010000004800400142 = .ok (.rxFiller ⟨false, true, peer, me, 64, 72, 0⟩) := by
  decide
theorem test_decode_timers : decode 0x0003 = .ok .txEnd ∧ decode 0x0004 = .ok .ifgEnd ∧ decode 0x0005 = .ok .pauseEnd := by
  decide
theorem test_decode_setAdmin :
    decode 0x0016 = .ok (.setAdmin true) ∧ decode 0x0006 = .ok (.setAdmin false) ∧ decode 0x00f6 = .ok (.setAdmin true) ∧
      decode 0x00e6 = .ok (.setAdmin false) := by decide
theorem test_decode_control :
    decode 0x0007 = .ok .shutdown ∧ decode 0x0087 = .ok .shutdown ∧ decode 0x0008 = .ok .setup ∧
      decode 0x0009 = .ok .reset := by decide
theorem test_decode_invalid :
    decode 0x0061 = .error .noSuchKind ∧ decode 0x0062 = .error .noSuchKind ∧ decode 0x0000 = .error .noSuchEvent ∧
      decode 0x000a = .error .noSuchEvent ∧ decode 0x000f = .error .noSuchEvent ∧ decode 0x0209 = .error .reservedBits ∧
      decode 0xfe01 = .error .reservedBits := by decide
theorem test_decodeTableWord :
    decodeTableWord 16 0x0016 = some (.setAdmin true) ∧ decodeTableWord 160 0x0061 = none := by decide
/-- Program P1's first SUBMIT, encoded. -/
theorem test_encode_submitData : encode (.submitData ⟨false, 0, bc, 46, 0⟩) = 0x000000000000ffffffffffff00000000002e0001 := by
  decide
theorem test_encode_rxPause :
    encode (.rxPause ⟨false, true, peer, pa, 64, 72, 10⟩) = 0x0200000000020180c2000001000a004800400122 := by decide

/-! ## The configuration record and the output words -/

/-- The `Std` record, 95_test_vectors.md. -/
theorem test_record_std :
    CfgRegs.ofRecord
        0x00000000000000040000000000000200000000000000006000000000000005ee00000000000000400000000005f5e10000000000000000020000020000000001 =
      stdCfg := by decide +kernel
theorem test_record_fields :
    stdCfg.addressLiteral = me ∧ stdCfg.addrAuto = false ∧ stdCfg.duplexMode = true ∧ stdCfg.queueMode = .internal ∧
      stdCfg.overflowPolicy = .fatal ∧ stdCfg.lineRate = 100000000 ∧ stdCfg.minFrameBytes = 64 ∧
      stdCfg.maxFrameBytes = 1518 ∧ stdCfg.interFrameGapBits = 96 ∧ stdCfg.pauseUnitBits = 512 ∧ stdCfg.queueLimit = 4 := by
  decide
/-- P1's OUT_TX. -/
theorem test_word_tx :
    (OutEvent.tx ⟨.data, bc, me, true, 64, 72, 0, false, ⟨0⟩⟩).word = 0x020000000001ffffffffffff0000004800400101 := by decide
/-- X1's OUT_DELIVER. -/
theorem test_word_deliver :
    (OutEvent.deliver ⟨.data, me, peer, true, 64, 64, 0, false, ⟨0⟩⟩).word = 0x0200000000020200000000010000004000400102 := by
  decide
theorem test_word_bare : OutEvent.pull.word = 0x0003 ∧ OutEvent.txAbort.word = 0x0004 := by decide
/-- P6's OUT_HALT. -/
theorem test_word_halt :
    (OutEvent.halt .submitOversize (.frame ⟨.data, peer, 0, false, 1519, 0, 0, false, ⟨0⟩⟩)).word =
      0x0000000000000200000000020000000005ef0805 := by decide

/-! ## Setup and control (95 section 2.7) -/

/-- K1. -/
theorem test_setup_std :
    after (offer State.reset (setupArrival stdCfg true 0)) (fun t =>
      decide (t.phase = .run ∧ t.txState = .idle ∧ t.address = me ∧ t.connected = true ∧ t.cfg = stdCfg ∧ t.out = [])) =
      true := by decide
/-- K3: duplex is checked before the rate. -/
theorem test_setup_duplex_first :
    after (offer State.reset (setupArrival { stdCfg with cfgMode := 0, cfgLineRate := 0 } true 0)) (fun t =>
      decide (t.phase = .halted ∧ (t.fault.map Prod.fst) = some .cfgHalfDuplex)) = true := by decide
/-- K6: with an overhead of 8 the greatest legal maximum is 65527. -/
theorem test_validate_max :
    validate 8 { stdCfg with cfgMaxFrame := 65528 } = some .cfgInvalid ∧
      validate 8 { stdCfg with cfgMaxFrame := 65527 } = none := by decide
/-- K7. -/
theorem test_validate_qlimit :
    validate 8 { stdCfg with cfgQueueLimit := 0 } = some .cfgInvalid ∧
      validate 8 { stdCfg with cfgQueueLimit := 0, cfgMode := 6 } = none := by decide
/-- K4, K5, K8. -/
theorem test_validate_others :
    validate 8 { stdCfg with cfgLineRate := 0 } = some .cfgInvalid ∧
      validate 8 { stdCfg with cfgMinFrame := 100, cfgMaxFrame := 64 } = some .cfgInvalid ∧
      validate 8 { stdCfg with cfgMode := 0x12 } = some .cfgInvalid := by decide
/-- K9. -/
theorem test_setup_auto :
    after (offer State.reset (setupArrival { stdCfg with cfgMode := 3 } true 0x02aabbccddee)) (fun t =>
      decide (t.address = 0x02aabbccddee)) = true := by decide
/-- K10. -/
theorem test_setup_external :
    after (offer State.reset (setupArrival { stdCfg with cfgMode := 6 } true 0)) (fun t =>
      decide (t.pullPending = true ∧ t.out = [⟨0, .pull⟩])) = true := by decide
/-- K12. -/
theorem test_shutdown_aborts :
    after (offer stdTx (arrival 0x0007 (us 100))) (fun t =>
      decide (t.phase = .stopped ∧ t.txEndAt = none ∧ t.slot = none ∧ t.out = [⟨us 100, .txAbort⟩])) = true := by decide
/-- K13, P9: a SUBMIT in STOPPED only sets the mark, and time stays. -/
theorem test_stopped_refuses :
    after (offer { stdRun with phase := .stopped, now := us 300 } (arrival (encode (.submitData (submitTo 64))) (us 400)))
      (fun t => decide (t.refused = true ∧ t.now = us 300 ∧ t.phase = .stopped)) = true := by decide
/-- K16. -/
theorem test_reset_aborts :
    after (offer stdTx (arrival 0x0009 (us 100))) (fun t =>
      decide (t.phase = .uninit ∧ t.now = us 100 ∧ t.out = [⟨us 100, .txAbort⟩])) = true := by decide
/-- K15: the OUT_HALT record stays. -/
theorem test_reset_keeps_trace :
    after (offer { stdRun with phase := .halted, fault := some (.startInvariant, .state .idle),
                               out := [⟨0, .halt .startInvariant (.state .idle)⟩] } (arrival 0x0009 (us 100))) (fun t =>
      decide (t.phase = .uninit ∧ t.fault = none ∧ t.out.length = 1)) = true := by decide
/-- K18: re-enabling with a pull pending asks for nothing. -/
theorem test_enable_with_pull :
    after (offer { stdExt with disabled := true } (arrival 0x0006 (us 100))) (fun t =>
      decide (t.disabled = false ∧ t.txState = .idle ∧ t.out = [])) = true := by decide
/-- R193: re-enabling in IDLE with no pull pending asks for a frame. -/
theorem test_enable_pulls :
    after (offer { stdExt with disabled := true, pullPending := false } (arrival 0x0006 (us 100))) (fun t =>
      decide (t.disabled = false ∧ t.pullPending = true ∧ t.out = [⟨us 100, .pull⟩])) = true := by decide

/-! ## SUBMIT (95 section 2.2) and the queue arbiter (2.3) -/

/-- U1. -/
theorem test_submit_pads_and_starts :
    after (offer stdRun (arrival 0x000000000000ffffffffffff00000000002e0001 0)) (fun t =>
      decide (t.counters.fromUpper = 1 ∧ t.txState = .transmitting ∧ t.txEndAt = some (us 576) ∧
        t.out = [⟨0, .tx ⟨.data, bc, me, true, 64, 72, 0, false, ⟨0⟩⟩⟩])) = true := by decide
/-- U3, S2: the count of the discarded event is discarded. -/
theorem test_submit_oversize :
    after (offer stdRun (arrival 0x0000000000000200000000020000000005ef0001 (us 100))) (fun t =>
      decide (t.phase = .halted ∧ (t.fault.map Prod.fst) = some .submitOversize ∧ t.counters = Counters.zero)) = true := by
  decide
/-- U6: the fatal checks come before the gate. -/
theorem test_submit_self_disconnected :
    after (offer { stdRun with connected := false } (arrival (encode (.submitData ⟨false, 0, me, 64, 0⟩)) 0)) (fun t =>
      decide ((t.fault.map Prod.fst) = some .submitDestIsSelf)) = true := by decide
/-- U9: disconnection is counted before the disable flag. -/
theorem test_submit_gate_order :
    after (offer { stdRun with connected := false, disabled := true } (arrival (encode (.submitData (submitTo 64))) 0))
      (fun t => decide (t.counters.fromUpper = 1 ∧ t.counters.dropUpDisconn = 1 ∧ t.counters.dropUpDisabled = 0)) =
      true := by decide
/-- U12, P7. -/
theorem test_submit_overflow :
    after (offer { stdTx with cfg := { stdCfg with cfgQueueLimit := 1 }, queue := [frameTo 64] }
      (arrival (encode (.submitData (submitTo 64))) 0)) (fun t =>
      decide ((t.fault.map Prod.fst) = some .queueOverflow ∧ t.txState = .transmitting ∧ t.queue = [frameTo 64])) =
      true := by decide
/-- U13. -/
theorem test_submit_reject :
    after (offer { stdTx with cfg := { stdCfg with cfgQueueLimit := 1, cfgMode := 0xa }, queue := [frameTo 64] }
      (arrival (encode (.submitData (submitTo 64))) 0)) (fun t =>
      decide (t.phase = .run ∧ t.counters.dropQfull = 1 ∧ t.out = [⟨0, .reject (frameTo 64)⟩])) = true := by decide
/-- U14. -/
theorem test_submit_external :
    after (offer stdExt (arrival (encode (.submitData (submitTo 64))) (us 100))) (fun t =>
      decide (t.pullPending = false ∧ t.txState = .transmitting ∧ t.out.length = 1)) = true := by decide
/-- U16: the gate comes before the slot check. -/
theorem test_submit_external_disabled :
    after (offer { stdTx with cfg := { stdCfg with cfgMode := 6 }, disabled := true }
      (arrival (encode (.submitData (submitTo 64))) (us 300))) (fun t =>
      decide (t.phase = .run ∧ t.counters.dropUpDisabled = 1 ∧ t.out = [])) = true := by decide
/-- U18, P11. -/
theorem test_submit_pause :
    after (offer stdRun (arrival 0x0000000000000180c20000010007000000000021 0)) (fun t =>
      decide (t.out = [⟨0, .tx ⟨.pause, pa, me, true, 64, 72, 7, false, ⟨0⟩⟩⟩])) = true := by decide
/-- U19. -/
theorem test_submit_filler :
    after (offer stdRun (arrival 0x0041 0)) (fun t => decide (t.refused = true ∧ t.counters = Counters.zero)) = true := by
  decide
/-- U21. -/
theorem test_submit_past :
    after (offer { stdRun with now := us 500 } (arrival (encode (.submitData (submitTo 64))) (us 400))) (fun t =>
      decide (t.refused = true ∧ t.now = us 500)) = true := by decide
/-- Q1. -/
theorem test_refill_internal :
    refill { stdRun with queue := [frameTo 64, frameTo 65] } =
      { stdRun with slot := some (frameTo 64), queue := [frameTo 65] } := by decide
/-- Q4. -/
theorem test_refill_pending : refill stdExt = stdExt := by decide

/-! ## The transmission controller and its timers (95 section 2.4) -/

/-- T1. -/
theorem test_txEnd :
    after stdTx (fun t =>
      decide (t.now = us 576 ∧ t.counters.txFrames = 1 ∧ t.counters.txBytes = 64 ∧ t.lastTxFinishTime = some (us 576) ∧
        t.txState = .waitIfg ∧ t.ifgEndAt = some (us 672) ∧ t.txEndAt = none ∧ t.slot = none)) = true := by decide
/-- T4: the latched pause replaces the gap. -/
theorem test_txEnd_pause :
    after { stdTx with pendingPause := 3 } (fun t =>
      decide (t.txState = .paused ∧ t.pendingPause = 0 ∧ t.pauseEndAt = some (us 2112) ∧ t.ifgEndAt = none)) = true := by
  decide
/-- U18: a PAUSE frame sent is counted apart from data. -/
theorem test_txEnd_counts_pause :
    after { stdTx with slot := some ⟨.pause, pa, me, true, 64, 0, 7, false, ⟨0⟩⟩ } (fun t =>
      decide (t.counters.txPause = 1 ∧ t.counters.txPauseUnits = 7 ∧ t.counters.txFrames = 0)) = true := by decide
/-- T2. -/
theorem test_ifgEnd_idle : after stdIfg (fun t => decide (t.txState = .idle ∧ t.now = us 672 ∧ t.ifgEndAt = none)) = true := by
  decide
/-- T3. -/
theorem test_ifgEnd_next :
    after { stdIfg with slot := some (frameTo 64) } (fun t =>
      decide (t.txState = .transmitting ∧ t.txEndAt = some (us 1248) ∧ t.out.length = 1)) = true := by decide
/-- P5: the gap's end with the block disabled drops the staged and the queued frame. -/
theorem test_ifgEnd_drops :
    after { stdIfg with disabled := true, slot := some (frameTo 64), queue := [frameTo 64] } (fun t =>
      decide (t.txState = .idle ∧ t.slot = none ∧ t.queue = [] ∧ t.counters.dropUpDisabled = 2 ∧ t.out = [])) = true := by
  decide
/-- P2: the pause's end starts the staged frame. -/
theorem test_pauseEnd_next :
    after { stdPaused with slot := some (frameTo 64) } (fun t =>
      decide (t.now = us 5120 ∧ t.txState = .transmitting ∧ t.txEndAt = some (us 5696))) = true := by decide
/-- T8: the state is checked before the frame. -/
theorem test_txEnd_badState :
    after { stdIfg with ifgEndAt := none, txEndAt := some (us 600) } (fun t =>
      decide (t.fault = some (.txendBadState, .state .waitIfg))) = true := by decide
/-- T7. -/
theorem test_txEnd_noFrame :
    after { stdTx with slot := none } (fun t => decide (t.fault = some (.txendNoFrame, .state .transmitting))) = true := by
  decide
/-- T9, T10. -/
theorem test_gap_and_pause_badState :
    after { stdRun with ifgEndAt := some (us 5) } (fun t => decide ((t.fault.map Prod.fst) = some .ifgendBadState)) =
        true ∧
      after { stdIfg with ifgEndAt := none, pauseEndAt := some (us 600) } (fun t =>
        decide ((t.fault.map Prod.fst) = some .pauseendBadState)) = true := by decide
/-- T11. -/
theorem test_start_invariant :
    (match startFrameTransmission { stdIfg with slot := some (frameTo 64), connected := false } with
      | .ok _ => false
      | .error (code, _) => decide (code = .startInvariant)) = true := by decide
/-- R87: a TX_END the environment offers is refused. -/
theorem test_txEnd_offered :
    after (offer { stdTx with ties := [0] } (arrival 0x0003 (us 576))) (fun t =>
      decide (t.refused = true ∧ t.txState = .transmitting)) = true := by decide

/-! ## Reception and pause flow control (95 sections 2.5, 2.6) -/

/-- X1. -/
theorem test_rx_deliver :
    after (offer stdRun (arrival 0x0200000000020200000000010000004800400102 (us 3100))) (fun t =>
      decide (t.counters.rxOkFrames = 1 ∧ t.counters.rxOkBytes = 64 ∧ t.rxOkTime = us 576 ∧
        t.out = [⟨us 3100, .deliver ⟨.data, me, peer, true, 64, 64, 0, false, ⟨0⟩⟩⟩])) = true := by decide
/-- X3: the group bit. -/
theorem test_rx_group :
    after (offer stdRun (arrival (encode (.rxData { rxFrom 72 with dst := 0x01005e000001 })) 0)) (fun t =>
      decide (t.counters.rxOkFrames = 1)) = true := by decide
/-- X4. -/
theorem test_rx_filtered :
    after (offer stdRun (arrival (encode (.rxData { rxFrom 72 with dst := other })) 0)) (fun t =>
      decide (t.counters = Counters.zero ∧ t.out = [] ∧ t.refused = false)) = true := by decide
/-- X6: the bit error is counted before the gate. -/
theorem test_rx_error_disconnected :
    after (offer { stdRun with connected := false } (arrival 0x0200000000020200000000010000004800400182 0)) (fun t =>
      decide (t.counters.dropBiterr = 1 ∧ t.counters.dropRxDisconn = 0)) = true := by decide
/-- X11, X12: the least wire length is the overhead. -/
theorem test_rx_overhead :
    after (offer stdRun (arrival (encode (.rxData (rxFrom 8))) 0)) (fun t => decide (t.counters.rxOkFrames = 1)) = true ∧
      after (offer stdRun (arrival (encode (.rxData (rxFrom 7))) 0)) (fun t => decide (t.refused = true)) = true := by
  decide
/-- X10. -/
theorem test_rx_filler :
    after (offer stdRun (arrival (encode (.rxFiller { rxFrom 72 with err := true })) (us 1))) (fun t =>
      decide (t.counters = Counters.zero ∧ t.out = [] ∧ t.now = us 1 ∧ t.refused = false)) = true := by decide
/-- F1. -/
theorem test_pause_idle :
    after (offer stdRun (arrival (encode (.rxPause (rxPauseOf 10))) 0)) (fun t =>
      decide (t.txState = .paused ∧ t.pauseEndAt = some (us 5120) ∧ t.counters.rxPause = 1 ∧
        t.counters.rxPauseUnits = 10)) = true := by decide
/-- F3: the new pause is measured from the new frame. -/
theorem test_pause_again :
    after (offer stdPaused (arrival (encode (.rxPause (rxPauseOf 5))) (us 2000))) (fun t =>
      decide (t.txState = .paused ∧ t.pauseEndAt = some (us 4560))) = true := by decide
/-- F2, F4. -/
theorem test_pause_zero :
    after (offer stdRun (arrival (encode (.rxPause (rxPauseOf 0))) 0)) (fun t => decide (t.txState = .idle)) = true ∧
      after (offer stdPaused (arrival (encode (.rxPause (rxPauseOf 0))) (us 2000))) (fun t =>
        decide (t.pauseEndAt = some (us 2000))) = true := by decide
/-- F6. -/
theorem test_pause_latched :
    after (offer { stdTx with pendingPause := 10 } (arrival (encode (.rxPause (rxPauseOf 4))) (us 1))) (fun t =>
      decide (t.pendingPause = 4 ∧ t.txState = .transmitting ∧ t.pauseEndAt = none)) = true := by decide
/-- P3's receive utilisation at the end of the run. -/
theorem test_utilisation :
    utilisation { stdRun with now := us 5232, rxOkTime := us 576 } = some (mkRat 12 109) := by decide +kernel
/-- R243: after a RESET at a later time, and after a SETUP that halts, the setup time has no value. -/
theorem test_utilisation_unset :
    after (offer stdTx (arrival 0x0009 (us 575))) (fun t => decide (utilisation t = none ∧ idleRatio t = none)) = true ∧
      after (offer { State.reset with now := us 575 } (arrival 0x0008 (us 576)))
        (fun t => decide (t.phase = .halted ∧ t.now ≠ t.tSetup ∧ utilisation t = none)) = true := by decide +kernel

/-! ## The step -/

/-- R211: the timer goes first when it is the earlier. -/
theorem test_timer_before_arrival :
    after (offer stdTx (arrival 0x0007 (us 600))) (fun t => decide (t.now = us 576 ∧ t.inbox.length = 1)) = true := by
  decide
/-- R212: both orders of SHUTDOWN and TX_END at one stamp (R251). -/
theorem test_tie_both_orders :
    after (offer { stdTx with ties := [0] } (arrival 0x0007 (us 576))) (fun t => decide (t.phase = .stopped)) = true ∧
      after (offer { stdTx with ties := [1] } (arrival 0x0007 (us 576))) (fun t =>
        decide (t.phase = .run ∧ t.counters.txFrames = 1)) = true := by decide
/-- R85: an invalid word is refused. -/
theorem test_invalid_word :
    after (offer stdRun (arrival 0x0061 (us 1))) (fun t => decide (t.refused = true ∧ t.now = 0 ∧ t.inbox = [])) = true := by
  decide
/-- A word placed for the next step is run by it, as the first after reset. -/
theorem test_withFetchWord :
    after (State.reset.withFetchWord 160 0x0008) (fun t => decide (t.phase = .halted)) = true ∧
      after (State.reset.withFetchWord 160 0x0009) (fun t => decide (t.phase = .uninit ∧ t.refused = false)) = true ∧
      after (State.reset.withFetchWord 160 0x0001) (fun t => decide (t.refused = true)) = true := by decide
theorem test_withFetchWord_running :
    after (stdTx.withFetchWord 160 0x0016) (fun t => decide (t.disabled = true ∧ t.txEndAt = some (us 576))) = true := by
  decide

/-! ## The script syntax (R92, R93) -/

theorem test_parse_submit :
    parseLine "@10us SUBMIT kind=DATA dst=ff-ff-ff-ff-ff-ff len=46".toList =
      some ⟨mkRat 10 1000000, .submit .data bc none 46 0⟩ := by decide +kernel
theorem test_parse_rx :
    parseLine "@5.76us RX kind=PAUSE dst=01-80-c2-00-00-01 src=02-00-00-00-00-02 wire=72 pause=10".toList =
      some ⟨us 576, .rx .pause pa peer 72 10 false⟩ := by decide +kernel
theorem test_parse_refused : parseScript ["@0 RESET", "@1 JUMP"] = .error ⟨2, "@1 JUMP"⟩ := by decide +kernel
/-- 95 section 3's encodings of the script lines. -/
theorem test_assemble_rx :
    ((parseLine "@0 RX kind=DATA dst=02-00-00-00-00-01 src=02-00-00-00-00-02 wire=72 err".toList).bind fun l =>
      (l.arrival 64 8 ⟨0⟩ true 0).map Arrival.word) = some 0x0200000000020200000000010000004800400182 := by
  decide +kernel
theorem test_assemble_setup :
    ((parseLine
        "@0 SETUP addr=02-00-00-00-00-01 mode=internal policy=fatal rate=100000000 min=64 max=1518 ifg=96 unit=512 qlimit=4".toList).bind
      fun l => (l.arrival 64 8 ⟨0⟩ true 0).map fun a => (a.word, a.record)) = some (0x0008, stdCfg) := by decide +kernel

/-! ## Witnesses: states that meet the invariant -/

theorem stdRun_inv : RunInv stdRun where
  legal := by unfold Legal; decide
  txTimer := by decide
  ifgTimer := by decide
  pauseTimer := by decide
  inFlight := by decide
  idleEmpty := by decide
  internal := by decide
  external := by decide
  frames := by intro f hf; cases hf
  gated := by decide
  future := by intro T t h; cases T <;> cases h

theorem stdTx_inv : RunInv stdTx where
  legal := by unfold Legal; decide
  txTimer := by decide
  ifgTimer := by decide
  pauseTimer := by decide
  inFlight := by decide
  idleEmpty := by decide
  internal := by decide
  external := by decide
  frames := by
    intro f hf
    obtain rfl : f = frameTo 64 := by simpa [heldFrames, stdTx, stdRun, State.reset] using hf
    exact ⟨by decide, by decide, by decide, by decide⟩
  gated := by decide
  future := by intro T t h; cases T <;> cases h; decide

/-- The gap, with a frame staged behind it. -/
def stdIfgNext : State := { stdIfg with slot := some (frameTo 64) }

theorem stdIfgNext_inv : RunInv stdIfgNext where
  legal := by unfold Legal; decide
  txTimer := by decide
  ifgTimer := by decide
  pauseTimer := by decide
  inFlight := by decide
  idleEmpty := by decide
  internal := by decide
  external := by decide
  frames := by
    intro f hf
    obtain rfl : f = frameTo 64 := by simpa [heldFrames, stdIfgNext, stdIfg, stdRun, State.reset] using hf
    exact ⟨by decide, by decide, by decide, by decide⟩
  gated := by decide
  future := by intro T t h; cases T <;> cases h; decide

theorem stdPaused_inv : RunInv stdPaused where
  legal := by unfold Legal; decide
  txTimer := by decide
  ifgTimer := by decide
  pauseTimer := by decide
  inFlight := by decide
  idleEmpty := by decide
  internal := by decide
  external := by decide
  frames := by intro f hf; cases hf
  gated := by decide
  future := by intro T t h; cases T <;> cases h; decide

theorem stdExt_inv : RunInv stdExt where
  legal := by unfold Legal; decide
  txTimer := by decide
  ifgTimer := by decide
  pauseTimer := by decide
  inFlight := by decide
  idleEmpty := by decide
  internal := by decide
  external := by decide
  frames := by intro f hf; cases hf
  gated := by decide
  future := by intro T t h; cases T <;> cases h

theorem stdRun_quiet : Quiet stdRun := ⟨rfl, rfl, rfl, rfl, rfl, rfl, rfl⟩

/-! ## Witnesses: one for the hypotheses of each statement -/

/-- The greatest fields a word can carry. -/
theorem witness_DecodeInvertsEncode : (Instr.rxData ⟨true, true, bc, bc, 65535, 65535, 65535⟩).wellFormed = true := by
  decide

theorem witness_EncodedFieldsStandAtTheirBits :
    (⟨true, bc, bc, 65535, 65535⟩ : SubmitOperands).wellFormed = true ∧
      (⟨true, true, bc, bc, 65535, 65535, 65535⟩ : RxOperands).wellFormed = true := by decide

theorem stdTx_headFirst (w : EventWord) : HeadFirst (offer stdTx (arrival w (us 575))) (arrival w (us 575)) [] := by
  refine ⟨rfl, fun _ T te h => ?_⟩
  cases T <;> cases h
  show us 575 < us 576
  decide

theorem witness_InvalidWordsAreRefused :
    HeadFirst (offer stdTx (arrival 0x0061 (us 575))) (arrival 0x0061 (us 575)) [] ∧
      decode (arrival 0x0061 (us 575)).word = .error .noSuchKind :=
  ⟨stdTx_headFirst _, by decide⟩

/-- Two words of each kind that differ only in fields their code does not read: A and E and W of a SUBMIT, A and L of an
RX, K of a SET_ADMIN, everything above bit 15 of a SHUTDOWN. -/
theorem witness_UnreadFieldsChangeNothing :
    ((0x00480040_0091 : EventWord) ≠ 0x0040_0001 ∧ fieldEv 0x00480040_0091 = fieldEv 0x0040_0001 ∧
      fieldRsv 0x00480040_0091 = fieldRsv 0x0040_0001 ∧ fieldK 0x00480040_0091 = fieldK 0x0040_0001 ∧
      fieldS 0x00480040_0091 = fieldS 0x0040_0001 ∧ fieldL 0x00480040_0091 = fieldL 0x0040_0001 ∧
      fieldP 0x00480040_0091 = fieldP 0x0040_0001 ∧ fieldDst 0x00480040_0091 = fieldDst 0x0040_0001 ∧
      fieldSrc 0x00480040_0091 = fieldSrc 0x0040_0001) ∧
    ((0x00480040_0012 : EventWord) ≠ 0x00480041_0002 ∧ fieldEv 0x00480040_0012 = fieldEv 0x00480041_0002 ∧
      fieldRsv 0x00480040_0012 = fieldRsv 0x00480041_0002 ∧ fieldK 0x00480040_0012 = fieldK 0x00480041_0002 ∧
      fieldE 0x00480040_0012 = fieldE 0x00480041_0002 ∧ fieldS 0x00480040_0012 = fieldS 0x00480041_0002 ∧
      fieldW 0x00480040_0012 = fieldW 0x00480041_0002 ∧ fieldP 0x00480040_0012 = fieldP 0x00480041_0002 ∧
      fieldDst 0x00480040_0012 = fieldDst 0x00480041_0002 ∧ fieldSrc 0x00480040_0012 = fieldSrc 0x00480041_0002) ∧
    ((0x0076 : EventWord) ≠ 0x0016 ∧ fieldEv 0x0076 = fieldEv 0x0016 ∧ fieldRsv 0x0076 = fieldRsv 0x0016 ∧
      fieldA 0x0076 = fieldA 0x0016) ∧
    ((0xffff0007 : EventWord) ≠ 0x0007 ∧ fieldEv 0xffff0007 = fieldEv 0x0007 ∧ fieldRsv 0xffff0007 = fieldRsv 0x0007) := by
  decide

theorem witness_StepHandlesTheOfferedEvent :
    HeadFirst (offer stdTx (arrival 0x0016 (us 575))) (arrival 0x0016 (us 575)) [] ∧
      decode (arrival 0x0016 (us 575)).word = .ok (.setAdmin true) :=
  ⟨stdTx_headFirst _, by decide⟩

theorem witness_StepFiresTheEarliestTimer : TimerFirst (offer stdTx (arrival 0x0016 (us 577))) .txEnd (us 576) := by
  refine ⟨rfl, rfl, fun T te hne h => ?_, fun a ha => ?_⟩
  · cases T <;> first | exact absurd rfl hne | cases h
  · obtain rfl : a = arrival 0x0016 (us 577) := by simpa [offer] using ha.symm
    show us 576 < us 577
    decide

theorem witness_NoEventPassesAnArmedTimer :
    stdTx.phase = .run ∧ stdTx.timerAt .txEnd = some (us 576) ∧ ∃ x u, fetch stdTx = (x, u) :=
  ⟨rfl, rfl, _, _, rfl⟩

theorem witness_EqualStampsFallEitherWay :
    stdTx.phase = .run ∧ (offer stdTx (arrival 0x0007 (us 576))).inbox = [arrival 0x0007 (us 576)] ∧
      decode (arrival 0x0007 (us 576)).word = .ok .shutdown ∧
      stdTx.timerAt .txEnd = some (arrival 0x0007 (us 576)).stamp ∧ (∀ T', T' ≠ .txEnd → stdTx.timerAt T' = none) ∧
      { stdTx with ties := [0] }.ties = 0 :: [] ∧ { stdTx with ties := [1] }.ties = 1 :: [] := by
  refine ⟨rfl, rfl, by decide, rfl, fun T h => ?_, rfl, rfl⟩
  cases T <;> first | exact absurd rfl h | rfl

/-- For every instruction a state in which it is refused; for SUBMIT of a FILLER frame every state is one. -/
theorem witness_RefusedEventsOnlySetTheMark :
    RefusedEvent (.submitData (submitTo 64)) State.reset ∧ RefusedEvent (.submitPause (submitTo 64)) State.reset ∧
      RefusedEvent (.submitFiller (submitTo 64)) stdRun ∧ RefusedEvent (.rxData (rxFrom 7)) stdRun ∧
      RefusedEvent (.rxPause (rxPauseOf 1)) State.reset ∧ RefusedEvent (.rxFiller (rxFrom 72)) State.reset ∧
      RefusedEvent .txEnd stdTx ∧ RefusedEvent .ifgEnd stdIfg ∧ RefusedEvent .pauseEnd stdPaused ∧
      RefusedEvent (.setAdmin true) State.reset ∧ RefusedEvent .shutdown State.reset ∧ RefusedEvent .setup stdRun ∧
      RefusedEvent .reset { stdRun with now := 1 } := by
  refine ⟨.inl ?_, .inl ?_, trivial, .inr (.inr ?_), .inl ?_, .inl ?_, .inr (.inr (.inl rfl)), .inr (.inr (.inl rfl)),
    .inr (.inr (.inl rfl)), .inl ?_, .inl ?_, .inl ?_, ?_⟩
  all_goals first | decide | (show (0 : Time) < 1; decide)

theorem witness_AcceptedEventsAdvanceTime :
    ¬ RefusedEvent .reset stdTx ∧ ∃ t, exec .reset stdTx = .next t := by
  refine ⟨fun h => ?_, _, rfl⟩
  exact absurd h (show ¬ (0 : Time) < 0 by decide)

theorem witness_MarkIsStickyAndTimeNeverDecreases :
    { stdTx with refused := true }.refused = true ∧ ∃ t, step { stdTx with refused := true } = .next t :=
  ⟨rfl, _, rfl⟩

theorem witness_TraceOnlyGrows : ∃ t, step stdExt = .next t := ⟨_, rfl⟩

/-- Each row of the table: RESET, SETUP (to RUN and to HALTED), SHUTDOWN, and a fatal error in RUN. -/
theorem witness_PhasesMoveOnlyAsTheTableSays :
    (∃ t, exec .reset stdTx = .next t ∧ t.phase ≠ stdTx.phase) ∧
    (∃ t, exec .setup { State.reset with cur := (setupArrival stdCfg true 0).delivery } = .next t ∧ t.phase ≠ .uninit) ∧
    (∃ t, exec .setup State.reset = .next t ∧ t.phase ≠ .uninit) ∧
    (∃ t, exec .shutdown stdTx = .next t ∧ t.phase ≠ stdTx.phase) ∧
    ∃ t, exec (.submitData (submitTo 1519)) stdRun = .next t ∧ t.phase ≠ stdRun.phase :=
  ⟨⟨_, rfl, by decide⟩, ⟨_, rfl, by decide⟩, ⟨_, rfl, by decide⟩, ⟨_, rfl, by decide⟩, ⟨_, rfl, by decide⟩⟩

theorem witness_HaltIsPrecise :
    ∃ t, exec (.submitData (submitTo 1519)) stdRun = .next t ∧ stdRun.phase ≠ .halted ∧ t.phase = .halted :=
  ⟨_, rfl, by decide, by decide⟩

theorem witness_OnlyResetLeavesHaltedAndStopped :
    { stdRun with phase := .halted }.phase = .halted ∧ { stdRun with phase := .stopped }.phase = .stopped ∧
      stdRun.inbox = [] ∧ stdRun.now ≤ stdRun.cur.stamp := by decide

/-- Both queue modes. -/
theorem witness_LegalSetupStartsTheEngine :
    State.reset.phase = .uninit ∧ State.reset.now ≤ State.reset.cur.stamp ∧
      Legal State.reset.overheadBytes (setupArrival stdCfg true 0).delivery.record ∧
      Legal State.reset.overheadBytes (setupArrival { stdCfg with cfgMode := 0x7 } true 0).delivery.record := by
  unfold Legal
  decide

/-- Each check of R182 at its boundary: the greatest maximum is 65527, and EXTERNAL mode takes a queue limit of 0. -/
theorem witness_SetupChecksInOrder :
    State.reset.phase = .uninit ∧ State.reset.now ≤ State.reset.cur.stamp ∧
      { stdCfg with cfgMode := 0 }.duplexMode = false ∧
      ({ stdCfg with cfgMode := 0x12 }.duplexMode = true ∧ { stdCfg with cfgMode := 0x12 }.reservedBitSet = true) ∧
      { stdCfg with cfgLineRate := 0 }.lineRate = 0 ∧
      65535 < { stdCfg with cfgMaxFrame := 65528 }.maxFrameBytes + State.reset.overheadBytes ∧
      { stdCfg with cfgMinFrame := 1519 }.maxFrameBytes < { stdCfg with cfgMinFrame := 1519 }.minFrameBytes ∧
      ({ stdCfg with cfgQueueLimit := 0 }.queueMode = .internal ∧ { stdCfg with cfgQueueLimit := 0 }.queueLimit = 0) ∧
      (let c : CfgRegs := { stdCfg with cfgMode := 6, cfgMinFrame := 65527, cfgMaxFrame := 65527, cfgQueueLimit := 0 }
       c.duplexMode = true ∧ c.reservedBitSet = false ∧ 1 ≤ c.lineRate ∧
        c.maxFrameBytes + State.reset.overheadBytes ≤ 65535 ∧ c.minFrameBytes ≤ c.maxFrameBytes ∧
        (c.queueMode = .internal → 1 ≤ c.queueLimit)) := by
  decide

theorem reset_powerOn (d : Delivery) : PowerOn { State.reset with cur := d } := by constructor <;> rfl

theorem witness_ReadyStateIsQuietAndEmpty : ∃ s, Ready stdCfg 0 true 0 s :=
  ⟨_, { State.reset with cur := (setupArrival stdCfg true 0).delivery }, reset_powerOn _, le_refl _,
    by unfold Legal; decide, rfl, rfl, rfl, rfl, rfl⟩

theorem witness_ResetReturnsToPowerOn : stdTx.now ≤ stdTx.cur.stamp ∧ stdTx.phase = .run ∧ stdTx.txState = .transmitting := by
  decide

/-- Both clauses, the second at the first length over the maximum. -/
theorem witness_SubmitFatalChecks :
    Kind.data ≠ .filler ∧ Kind.pause ≠ .filler ∧ stdRun.phase = .run ∧ stdRun.now ≤ stdRun.cur.stamp ∧
      { submitTo 64 with dst := me }.dst = stdRun.address ∧ (submitTo 1519).dst ≠ stdRun.address ∧
      stdRun.cfg.maxFrameBytes < (submitTo 1519).len % 65536 := by decide

/-- The three shapes of the result, at the greatest length accepted. -/
theorem witness_SubmitIsDroppedAtTheClosedGate :
    Kind.data ≠ .filler ∧ stdRun.now ≤ stdRun.cur.stamp ∧ (submitTo 1518).dst ≠ stdRun.address ∧
      (submitTo 1518).len % 65536 ≤ stdRun.cfg.maxFrameBytes ∧ { stdRun with connected := false }.connected = false ∧
      { stdExt with disabled := true }.disabled = true ∧ stdExt.cfg.queueMode = .external ∧ stdExt.slot = none ∧
      { stdExt with disabled := true, slot := some (frameTo 64) }.slot = some (frameTo 64) := by decide

theorem witness_SubmitWhenIdleTransmitsAtOnce :
    Kind.pause ≠ .filler ∧ stdRun.phase = .run ∧ stdRun.now ≤ stdRun.cur.stamp ∧ (submitTo 1518).dst ≠ stdRun.address ∧
      (submitTo 1518).len % 65536 ≤ stdRun.cfg.maxFrameBytes ∧ stdRun.connected = true ∧ stdRun.disabled = false ∧
      stdRun.txState = .idle ∧ stdRun.slot = none ∧ stdRun.queue = [] ∧ 1 ≤ stdRun.cfg.queueLimit ∧
      1 ≤ stdRun.cfg.lineRate := by decide

/-- INTERNAL with one place left, with and without a frame in the slot; EXTERNAL with an empty slot. -/
theorem witness_SubmitWhenBusyWaitsInOrder :
    (submitTo 0).dst ≠ stdTx.address ∧ (submitTo 0).len % 65536 ≤ stdTx.cfg.maxFrameBytes ∧ stdTx.connected = true ∧
      stdTx.disabled = false ∧ stdTx.txState ≠ .idle ∧
      (stdTx.cfg.queueMode = .internal ∧
        { stdTx with queue := [frameTo 64, frameTo 64, frameTo 64] }.queue.length < stdTx.cfg.queueLimit) ∧
      (stdPaused.txState ≠ .idle ∧ stdPaused.slot = none ∧ stdPaused.queue.length < stdPaused.cfg.queueLimit) ∧
      ({ stdExt with txState := .paused }.txState ≠ .idle ∧ stdExt.cfg.queueMode = .external ∧ stdExt.slot = none) := by
  decide

/-- The three clauses, INTERNAL at exactly the limit. -/
theorem witness_SubmitWithNoRoom :
    (submitTo 64).dst ≠ stdTx.address ∧ stdTx.connected = true ∧ stdTx.disabled = false ∧ stdTx.txState ≠ .idle ∧
      stdTx.cfg.queueLimit ≤
        { stdTx with queue := [frameTo 64, frameTo 64, frameTo 64, frameTo 64] }.queue.length ∧
      stdTx.cfg.overflowPolicy = .fatal ∧ { stdCfg with cfgMode := 0xa }.overflowPolicy = .reject ∧
      { stdCfg with cfgMode := 0xa }.queueMode = .internal ∧
      ({ stdTx with cfg := stdExt.cfg }.cfg.queueMode = .external ∧ stdTx.slot ≠ none) := by decide

theorem witness_SubmitLeavesTheRest : Kind.data ≠ .filler ∧ ∃ t, exec (submitInstr .data (submitTo 64)) stdTx = .next t :=
  ⟨by decide, _, rfl⟩

/-- The four cases. -/
theorem witness_RefillFollowsItsRule :
    stdTx.slot ≠ none ∧ (stdRun.slot = none ∧ stdRun.cfg.queueMode = .internal) ∧
      (stdExt.slot = none ∧ stdExt.cfg.queueMode = .external ∧ stdExt.pullPending = true) ∧
      { stdExt with pullPending := false }.pullPending = false := by decide

theorem witness_CountersAddModuloTheirWidth : Ctr.txFrames ≠ Ctr.txBytes := by decide

theorem stdTx_due : Due .txEnd (byTimer stdTx (us 576)) := by unfold Due; decide
theorem stdIfg_due : Due .ifgEnd (byTimer stdIfgNext (us 672)) := by unfold Due; decide
theorem stdPaused_due : Due .pauseEnd (byTimer stdPaused (us 5120)) := by unfold Due; decide

theorem witness_TransmissionEndFinalisesTheFrame :
    Due .txEnd (byTimer stdTx (us 576)) ∧ (byTimer stdTx (us 576)).txState = .transmitting ∧
      (byTimer stdTx (us 576)).slot = some (frameTo 64) ∧ 1 ≤ stdTx.cfg.lineRate :=
  ⟨stdTx_due, rfl, rfl, by decide⟩

/-- The four clauses; no run reaches these states (95 T7 to T10). -/
theorem witness_StrayTimersHalt :
    (Due .txEnd (byTimer { stdTx with txState := .idle } (us 576)) ∧ TxState.idle ≠ .transmitting) ∧
      (Due .txEnd (byTimer { stdTx with slot := none } (us 576)) ∧ stdTx.txState = .transmitting) ∧
      (Due .ifgEnd (byTimer { stdIfg with txState := .idle } (us 672)) ∧ TxState.idle ≠ .waitIfg) ∧
      (Due .pauseEnd (byTimer { stdPaused with txState := .idle } (us 5120)) ∧ TxState.idle ≠ .paused) := by
  unfold Due
  decide

/-- Both timers, with and without a staged frame. -/
theorem witness_GapOrPauseEndStartsTheStagedFrame :
    (Due .ifgEnd (byTimer stdIfgNext (us 672)) ∧ stdIfgNext.txState = .waitIfg ∧ stdIfgNext.slot = some (frameTo 64) ∧
      stdIfgNext.connected = true ∧ stdIfgNext.disabled = false) ∧
    (Due .pauseEnd (byTimer stdPaused (us 5120)) ∧ stdPaused.txState = .paused ∧ stdPaused.slot = none) ∧
    1 ≤ stdCfg.lineRate :=
  ⟨⟨stdIfg_due, rfl, rfl, rfl, rfl⟩, ⟨stdPaused_due, rfl, rfl⟩, by decide⟩

/-- Both timers and both queue modes, the gate closed by the disable flag and by no connection. -/
theorem witness_GapOrPauseEndDropsWhenTheGateIsClosed :
    (Due .ifgEnd (byTimer { stdIfgNext with disabled := true } (us 672)) ∧ stdIfgNext.txState = .waitIfg ∧
      stdIfgNext.slot = some (frameTo 64) ∧ stdIfgNext.cfg.queueMode = .internal) ∧
    (Due .pauseEnd (byTimer { stdPaused with connected := false, slot := some (frameTo 64), cfg := stdExt.cfg } (us 5120)) ∧
      stdPaused.txState = .paused ∧ stdExt.cfg.queueMode = .external) := by
  unfold Due
  decide

theorem witness_TimerEventsLeaveTheRest : ∃ t, exec Timer.ifgEnd.event (byTimer stdIfgNext (us 672)) = .next t := ⟨_, rfl⟩

theorem witness_RoundTripOfOneFrame :
    let s := offer stdRun (arrival 0x000000000000ffffffffffff00000000002e0001 0)
    Quiet s ∧ RunInv s ∧ s.inbox = [arrival 0x000000000000ffffffffffff00000000002e0001 0] ∧
      decode (arrival 0x000000000000ffffffffffff00000000002e0001 0).word = .ok (.submitData ⟨false, 0, bc, 46, 0⟩) ∧
      s.now ≤ (arrival 0x000000000000ffffffffffff00000000002e0001 0).stamp ∧ s.connected = true ∧ s.disabled = false ∧
      s.pendingPause = 0 ∧ s.cfg.queueMode = .internal ∧ bc ≠ s.address ∧ 46 ≤ s.cfg.maxFrameBytes :=
  ⟨⟨rfl, rfl, rfl, rfl, rfl, rfl, rfl⟩, stdRun_inv.same rfl rfl rfl rfl rfl rfl rfl rfl rfl rfl rfl, rfl, by decide,
    by decide, rfl, rfl, rfl, by decide, by decide, by decide⟩

theorem witness_FillerIsDiscarded : stdRun.phase = .run ∧ stdRun.now ≤ stdRun.cur.stamp := by decide

/-- The least and the greatest wire length. -/
theorem witness_BitErrorIsCountedOnce :
    { rxFrom 8 with err := true }.err = true ∧ stdRun.overheadBytes ≤ (rxFrom 8).wireLen ∧ (rxFrom 65535).wireLen < 65536 := by
  decide

theorem witness_ReceptionAtTheClosedGate :
    (rxFrom 72).err = false ∧ { stdRun with connected := false }.connected = false ∧
      { stdRun with disabled := true }.disabled = true ∧ stdRun.overheadBytes ≤ (rxFrom 72).wireLen ∧
      (rxFrom 72).wireLen < 65536 := by decide

theorem witness_AddressFilter :
    { rxFrom 72 with dst := other }.dst = other ∧ addressedToUs stdRun other = false ∧ stdRun.phase = .run ∧
      stdRun.now ≤ stdRun.cur.stamp ∧ (rxFrom 72).err = false ∧ stdRun.connected = true ∧ stdRun.disabled = false ∧
      stdRun.overheadBytes ≤ (rxFrom 72).wireLen ∧ (rxFrom 72).wireLen < 65536 := by decide

theorem witness_DataIsDelivered :
    stdRun.phase = .run ∧ stdRun.now ≤ stdRun.cur.stamp ∧ (rxFrom 65535).err = false ∧ stdRun.connected = true ∧
      stdRun.disabled = false ∧ addressedToUs stdRun (rxFrom 65535).dst = true ∧
      stdRun.overheadBytes ≤ (rxFrom 65535).wireLen ∧ (rxFrom 65535).wireLen < 65536 ∧ 1 ≤ stdRun.cfg.lineRate := by decide

/-- The block halted by its own SETUP, and by a SUBMIT during a transmission. -/
def setupHalted : State := State.reset.halt .cfgInvalid (.record stdCfg)
def submitHalted : State := (atTime stdTx (us 575)).halt .submitDestIsSelf (.frame (frameTo 64))

/-- Each clause: UNINIT, no time elapsed, a block halted by SETUP and one halted by SUBMIT, RUN and STOPPED. -/
theorem witness_ReceiveRatiosFollowTheirRule :
    State.reset.phase = .uninit ∧ stdRun.now = stdRun.tSetup ∧
      (setupHalted.phase = .halted ∧ setupHalted.fault = some (.cfgInvalid, .record stdCfg) ∧
        Fatal.cfgInvalid.code.toNat ≤ 2) ∧
      (submitHalted.phase = .halted ∧ submitHalted.fault = some (.submitDestIsSelf, .frame (frameTo 64)) ∧
        2 < Fatal.submitDestIsSelf.code.toNat ∧ submitHalted.now ≠ submitHalted.tSetup) ∧
      (stdIfg.phase = .run ∧ stdIfg.now ≠ stdIfg.tSetup) ∧
      ((shutdownBody stdIfg).phase = .stopped ∧ (shutdownBody stdIfg).now ≠ (shutdownBody stdIfg).tSetup) := by decide

/-- Every protocol state, and both a pause of no unit and the longest. -/
theorem witness_PauseIsObeyed :
    stdRun.phase = .run ∧ stdRun.now ≤ stdRun.cur.stamp ∧ (rxPauseOf 65535).err = false ∧ stdRun.connected = true ∧
      stdRun.disabled = false ∧ addressedToUs stdRun (rxPauseOf 65535).dst = true ∧ (rxPauseOf 65535).pauseUnits < 65536 ∧
      1 ≤ stdRun.cfg.lineRate ∧ (rxPauseOf 0).pauseUnits = 0 ∧ stdRun.txState = .idle ∧ stdPaused.txState = .paused ∧
      stdTx.txState = .transmitting ∧ stdIfg.txState = .waitIfg := by decide

/-- A PAUSE frame filtered by address; DATA and FILLER frames have no further premise. -/
theorem witness_ReceptionLeavesTransmitState :
    addressedToUs stdTx { rxPauseOf 5 with dst := other }.dst = false ∧
      (∃ t, exec (rxInstr .pause { rxPauseOf 5 with dst := other }) stdTx = .next t) ∧
      ∃ t, exec (rxInstr .data (rxFrom 72)) stdTx = .next t :=
  ⟨by decide, ⟨_, rfl⟩, ⟨_, rfl⟩⟩

theorem witness_ReceptionLeavesTheRest : ∃ t, exec (rxInstr .pause (rxPauseOf 5)) stdRun = .next t := ⟨_, rfl⟩

theorem witness_ShutdownStopsTheEngine : stdTx.phase = .run ∧ stdTx.now ≤ stdTx.cur.stamp := by decide

/-- Both branches: re-enabling in IDLE with no pull pending, and any other write of the flag. -/
theorem witness_SetAdminWritesTheFlag :
    let s := { stdExt with disabled := true, pullPending := false }
    s.phase = .run ∧ s.now ≤ s.cur.stamp ∧ (s.txState = .idle → s.slot = none ∧ s.queue = []) ∧ s.disabled = true ∧
      s.cfg.queueMode = .external ∧ s.pullPending = false ∧ stdTx.txState ≠ .idle := by decide

theorem witness_StepKeepsTheInvariant : Inv stdTx ∧ ∃ t, step stdTx = .next t := ⟨fun _ => stdTx_inv, _, rfl⟩

theorem witness_StrayTimerFatalsAreUnreachable :
    let s := offer stdRun (arrival 0x0000000000000200000000020000000005ef0001 (us 100))
    Inv s ∧ ∃ t, step s = .next t ∧ s.phase ≠ .halted ∧ t.phase = .halted :=
  ⟨fun _ => stdRun_inv.same rfl rfl rfl rfl rfl rfl rfl rfl rfl rfl rfl, _, rfl, by decide, by decide⟩

theorem witness_AtMostOneFrameInFlight :
    Inv stdIfgNext ∧ ∃ t new, step stdIfgNext = .next t ∧ t.out = stdIfgNext.out ++ new ∧
      ∃ r ∈ new, r.event.isTx = true :=
  ⟨fun _ => stdIfgNext_inv, _, [⟨us 672, .tx (wireFrame stdIfgNext (frameTo 64))⟩], rfl, by decide, by decide⟩

theorem witness_WireFramesAreWithinLimits :
    Inv stdIfgNext ∧ ∃ t new, step stdIfgNext = .next t ∧ t.out = stdIfgNext.out ++ new ∧
      ⟨us 672, .tx (wireFrame stdIfgNext (frameTo 64))⟩ ∈ new :=
  ⟨fun _ => stdIfgNext_inv, _, [⟨us 672, .tx (wireFrame stdIfgNext (frameTo 64))⟩], rfl, by decide, by decide⟩

theorem witness_DisconnectedNeverTransmits :
    let s := { stdRun with connected := false }
    s.phase = .run ∧ s.connected = false ∧ ∃ t, exec (.submitData (submitTo 64)) s = .next t ∧ t.out = s.out ++ [] :=
  ⟨rfl, rfl, _, rfl, by decide⟩

theorem witness_NoFrameOvertakesAnother :
    Inv stdTx ∧ stdTx.phase = .run ∧ ∃ t, step stdTx = .next t ∧ t.phase = .run :=
  ⟨fun _ => stdTx_inv, rfl, _, rfl, by decide⟩

theorem witness_SetupValuesAreReadOnly :
    stdTx.phase ≠ .uninit ∧ ∃ t, step stdTx = .next t ∧ t.phase ≠ .uninit := ⟨by decide, _, rfl, by decide⟩

/-- One move of each row of the table. -/
theorem witness_ProtocolStateFollowsTheTable :
    (RunInv stdRun ∧ (∃ t, exec (.submitData (submitTo 64)) stdRun = .next t ∧ t.txState ≠ .idle) ∧
      ∃ t, exec (.rxPause (rxPauseOf 1)) stdRun = .next t ∧ t.txState ≠ .idle) ∧
    (RunInv (byTimer stdTx (us 576)) ∧ ∃ t, exec .txEnd (byTimer stdTx (us 576)) = .next t ∧ t.txState ≠ .transmitting) ∧
    (RunInv (byTimer stdIfgNext (us 672)) ∧
      ∃ t, exec .ifgEnd (byTimer stdIfgNext (us 672)) = .next t ∧ t.txState ≠ .waitIfg) ∧
    (RunInv (byTimer stdPaused (us 5120)) ∧
      ∃ t, exec .pauseEnd (byTimer stdPaused (us 5120)) = .next t ∧ t.txState ≠ .paused) :=
  ⟨⟨stdRun_inv, ⟨_, rfl, by decide⟩, ⟨_, rfl, by decide⟩⟩,
    ⟨stdTx_inv.same rfl rfl rfl rfl rfl rfl rfl rfl rfl rfl rfl, _, rfl, by decide⟩,
    ⟨stdIfgNext_inv.same rfl rfl rfl rfl rfl rfl rfl rfl rfl rfl rfl, _, rfl, by decide⟩,
    ⟨stdPaused_inv.same rfl rfl rfl rfl rfl rfl rfl rfl rfl rfl rfl, _, rfl, by decide⟩⟩

theorem witness_PauseBlocksTransmission :
    stdPaused.phase = .run ∧ stdPaused.txState = .paused ∧ Instr.submitData (submitTo 64) ≠ .pauseEnd ∧
      ∃ t, exec (.submitData (submitTo 64)) stdPaused = .next t ∧ t.out = stdPaused.out ++ [] ∧ t.phase = .run :=
  ⟨rfl, rfl, by decide, _, rfl, by decide, by decide⟩

theorem witness_EveryRunEnds : Inv stdIfgNext ∧ Inv State.reset := ⟨fun _ => stdIfgNext_inv, fun h => by cases h⟩

end Sys2Proof.Tests
end

section
/-! ## The counters (R12, R40) -/

namespace Sys2Proof.Machine

/-- The counter added to, read as a number: R12's `add` at R40's width of 64 bits. -/
theorem Counters.toNat_get_add_self (c : Counters) (k : Ctr) (n : Nat) :
    ((c.add k n).get k).toNat = ((c.get k).toNat + n) % 2 ^ 64 := by
  rw [Counters.get_add_self, BitVec.toNat_add, BitVec.toNat_ofNat, Nat.add_mod_mod]

/-- Settles O33: the counter named wraps at its width, and the addition is framed to it. -/
theorem countersAddModuloTheirWidth : Obligations.CountersAddModuloTheirWidth :=
  fun c k n => ⟨c.toNat_get_add_self k n, fun j h => c.get_add_other k j n h⟩

end Sys2Proof.Machine
end

section
/-!
## What a step comes to

The scheduler and the handling of the event in one case split: later proofs about `step` cite it and open neither.
-/

namespace Sys2Proof.Machine

/-- `u` is `s` with the next event in hand: only the model's own fields differ, and no timer that can fire has an expiry
below the event's stamp (R211). -/
structure InHand (s u : State) : Prop where
  eq : u = { s with inbox := u.inbox, cur := u.cur, ties := u.ties, tieDraws := u.tieDraws }
  due : s.phase = .run → ∀ T te, s.timerAt T = some te → u.cur.stamp ≤ te

/-- What a step from `s` can come to. -/
inductive StepOutcome (s : State) : State → Prop where
  /-- nothing to take -/
  | waits : StepOutcome s s
  /-- a word that spells no event, or an event refused (R85, R204) -/
  | refused {u : State} (hand : InHand s u) : StepOutcome s u.refuse
  /-- an event accepted, whose rule reaches `t` (R213) -/
  | accepted {u t : State} {i : Instr} (hand : InHand s u) (acc : ¬ RefusedEvent i u)
      (body : bodyOf i u.arrive = .ok t) : StepOutcome s t
  /-- an event accepted, whose rule raises a fatal error (R205) -/
  | halted {u : State} {code : Fatal} {info : FaultInfo} (hand : InHand s u) (inOrder : u.now ≤ u.cur.stamp) :
      StepOutcome s (u.halt code info)

/-- An accepted event is not in the past (R213). -/
theorem stamp_of_accepted {i : Instr} {s : State} (h : ¬ RefusedEvent i s) : s.now ≤ s.cur.stamp := by
  cases i
  case submitFiller => exact absurd trivial h
  case reset => exact not_lt.1 h
  case rxData | txEnd | ifgEnd | pauseEnd => exact not_lt.1 fun hc => h (.inr (.inl hc))
  all_goals exact not_lt.1 fun hc => h (.inr hc)

/-- SETUP is accepted in UNINIT only (R181). -/
theorem phase_of_accepted_setup {s : State} (h : ¬ RefusedEvent .setup s) : s.phase = .uninit :=
  not_not.1 fun hc => h (.inl hc)

/-- Handling the event in hand is one of the outcomes of the step. -/
theorem StepOutcome.of_exec {i : Instr} {s u t : State} (hand : InHand s u) (h : exec i u = .next t) :
    StepOutcome s t := by
  rcases exec_cases i u with ⟨-, e⟩ | ⟨v, hacc, hb, e⟩ | ⟨code, info, hacc, -, e⟩ <;> rw [e] at h <;> cases h
  · exact .refused hand
  · exact .accepted hand hacc hb
  · exact .halted hand (stamp_of_accepted hacc)

theorem step_outcome {s t : State} (h : step s = .next t) : StepOutcome s t := by
  rcases step_cases s with ⟨-, e⟩ | ⟨a, rest, x, y, -, hdue, ⟨i, -, e⟩ | ⟨w, -, e⟩⟩ |
    ⟨T, te, x, y, -, -, hleast, -, e⟩ <;> rw [e] at h
  · cases h
    exact .waits
  · exact .of_exec ⟨rfl, hdue⟩ h
  · cases h
    exact .refused (u := { s with inbox := rest, cur := a.delivery, ties := x, tieDraws := y }) ⟨rfl, hdue⟩
  · exact .of_exec ⟨rfl, fun _ => hleast⟩ h

namespace InHand

variable {s u : State} (h : InHand s u)
include h

theorem phase : u.phase = s.phase := by rw [h.eq]
theorem txState : u.txState = s.txState := by rw [h.eq]
theorem connected : u.connected = s.connected := by rw [h.eq]
theorem address : u.address = s.address := by rw [h.eq]
theorem tSetup : u.tSetup = s.tSetup := by rw [h.eq]
theorem cfg : u.cfg = s.cfg := by rw [h.eq]
theorem now : u.now = s.now := by rw [h.eq]
theorem out : u.out = s.out := by rw [h.eq]
theorem refused : u.refused = s.refused := by rw [h.eq]
theorem timerAt (T : Timer) : u.timerAt T = s.timerAt T := by
  rw [h.eq]
  cases T <;> rfl

end InHand

end Sys2Proof.Machine
end

section
/-!
## The invariant of phase RUN, in parts (R44)

`HeldInv` is the part that speaks of the frames held, `Staged` says that frames wait only behind a staged one, and
`Timer.runsIn` ties the one armed timer to the protocol state. Rules pass through states where the timers do not yet
agree; `HeldInv` and `Staged` hold there too.
-/

namespace Sys2Proof.Machine

/-- The part of the invariant that speaks of the frames held, the pull and the configuration (R44 items 4 to 7). -/
structure HeldInv (s : State) : Prop where
  legal : Legal s.overheadBytes s.cfg
  internal : s.cfg.queueMode = .internal → s.queue.length ≤ s.cfg.queueLimit ∧ s.pullPending = false
  external : s.cfg.queueMode = .external → s.queue = [] ∧ (s.pullPending = true → s.slot = none)
  frames : ∀ f ∈ heldFrames s, FrameOk s.cfg f
  gated : s.connected = false → s.slot = none ∧ s.queue = []

/-- Frames wait only behind a staged one (R44 item 4). -/
def Staged (s : State) : Prop := s.slot = none → s.queue = []

/-- The protocol state in which a timer is armed (R44 item 1). -/
def Timer.runsIn : Timer → TxState
  | .txEnd => .transmitting
  | .ifgEnd => .waitIfg
  | .pauseEnd => .paused

theorem Timer.runsIn_inj {T T' : Timer} : T.runsIn = T'.runsIn ↔ T = T' := by
  cases T <;> cases T' <;> simp [Timer.runsIn]

theorem Timer.runsIn_ne_idle (T : Timer) : T.runsIn ≠ .idle := by cases T <;> exact nofun

theorem timerAt_congr {s t : State} (h1 : t.txEndAt = s.txEndAt) (h2 : t.ifgEndAt = s.ifgEndAt)
    (h3 : t.pauseEndAt = s.pauseEndAt) (T : Timer) : t.timerAt T = s.timerAt T := by
  cases T <;> assumption

/-- Two states whose protocol state and timers agree. -/
structure SameTimers (s t : State) : Prop where
  txState : t.txState = s.txState
  timerAt : ∀ T, t.timerAt T = s.timerAt T

namespace SameTimers

theorem refl (s : State) : SameTimers s s := ⟨rfl, fun _ => rfl⟩

theorem trans {s t u : State} (h : SameTimers s t) (k : SameTimers t u) : SameTimers s u :=
  ⟨k.txState.trans h.txState, fun T => (k.timerAt T).trans (h.timerAt T)⟩

/-- An update that touches neither the protocol state nor a timer. -/
theorem of_eq {s t : State} (h1 : t.txState = s.txState) (h2 : t.txEndAt = s.txEndAt) (h3 : t.ifgEndAt = s.ifgEndAt)
    (h4 : t.pauseEndAt = s.pauseEndAt) : SameTimers s t :=
  ⟨h1, timerAt_congr h2 h3 h4⟩

end SameTimers

@[simp] theorem timerAt_disarm_self (s : State) (T : Timer) : (s.disarm T).timerAt T = none := by cases T <;> rfl

theorem timerAt_disarm_other {s : State} {T T' : Timer} (h : T' ≠ T) : (s.disarm T).timerAt T' = s.timerAt T' := by
  cases T <;> cases T' <;> simp_all [State.disarm, State.timerAt]

namespace HeldInv

/-- The part reads only these fields. -/
theorem same {s t : State} (h : HeldInv s) (h1 : t.overheadBytes = s.overheadBytes) (h2 : t.cfg = s.cfg)
    (h3 : t.slot = s.slot) (h4 : t.queue = s.queue) (h5 : t.pullPending = s.pullPending)
    (h6 : t.connected = s.connected) : HeldInv t where
  legal := by rw [h1, h2]; exact h.legal
  internal := by rw [h2, h4, h5]; exact h.internal
  external := by rw [h2, h3, h4, h5]; exact h.external
  frames := by rw [h2, heldFrames, h3, h4]; exact h.frames
  gated := by rw [h3, h4, h6]; exact h.gated

/-- With nothing held, a legal configuration and a pull only in EXTERNAL mode are enough. -/
theorem of_empty {s : State} (hl : Legal s.overheadBytes s.cfg) (hs : s.slot = none) (hq : s.queue = [])
    (hp : s.cfg.queueMode = .internal → s.pullPending = false) : HeldInv s where
  legal := hl
  internal hm := ⟨by simp [hq], hp hm⟩
  external _ := ⟨hq, fun _ => hs⟩
  frames := by simp [heldFrames, hs, hq]
  gated _ := ⟨hs, hq⟩

theorem lineRate_ne {s : State} (h : HeldInv s) : s.cfg.lineRate ≠ 0 := (validate_none h.legal).2.2.1

theorem disarm {s : State} (h : HeldInv s) (T : Timer) : HeldInv (s.disarm T) := by
  apply h.same <;> simp

end HeldInv

namespace RunInv

theorem heldInv {s : State} (h : RunInv s) : HeldInv s where
  legal := h.legal
  internal hm := (h.internal hm).2
  external := h.external
  frames := h.frames
  gated hc := ⟨(h.gated hc).1, (h.gated hc).2.1⟩

theorem staged {s : State} (h : RunInv s) : Staged s := by
  intro hs
  cases hm : s.cfg.queueMode with
  | internal => exact (h.internal hm).1 hs
  | external => exact (h.external hm).1

/-- A timer is armed exactly in its protocol state (R44 item 1). -/
theorem armed_iff {s : State} (h : RunInv s) (T : Timer) : s.txState = T.runsIn ↔ s.timerAt T ≠ none := by
  cases T
  · exact h.txTimer
  · exact h.ifgTimer
  · exact h.pauseTimer

theorem unarmed {s : State} (h : RunInv s) {T : Timer} (hx : s.txState ≠ T.runsIn) : s.timerAt T = none :=
  not_not.1 fun hc => hx ((h.armed_iff T).2 hc)

/-- The firing of the timer that is armed leaves none. -/
theorem disarm_unarmed {s : State} (h : RunInv s) {T : Timer} (hx : s.txState = T.runsIn) (T' : Timer) :
    (s.disarm T).timerAt T' = none := by
  by_cases hT : T' = T
  · subst hT
    exact timerAt_disarm_self s T'
  · rw [timerAt_disarm_other hT]
    exact h.unarmed fun hc => hT (Timer.runsIn_inj.1 (hc.symm.trans hx))

/-- A block that waits for its gap or transmits is connected (R44 item 7). -/
theorem connected {s : State} (h : RunInv s) (h1 : s.txState ≠ .idle) (h2 : s.txState ≠ .paused) :
    s.connected = true := by
  by_contra hc
  exact ((h.gated (Bool.eq_false_iff.2 hc)).2.2).elim h1 h2

/-- The invariant from its parts. -/
theorem of_parts {s : State} (hh : HeldInv s) (hst : Staged s)
    (harmed : ∀ T, s.txState = T.runsIn ↔ s.timerAt T ≠ none) (hflight : s.txState = .transmitting → s.slot ≠ none)
    (hidle : s.txState = .idle → s.slot = none ∧ s.queue = [])
    (hgate : s.connected = false → s.txState = .idle ∨ s.txState = .paused)
    (hfut : ∀ T te, s.timerAt T = some te → s.now ≤ te) : RunInv s where
  legal := hh.legal
  txTimer := harmed .txEnd
  ifgTimer := harmed .ifgEnd
  pauseTimer := harmed .pauseEnd
  inFlight := hflight
  idleEmpty := hidle
  internal hm := ⟨hst, hh.internal hm⟩
  external := hh.external
  frames := hh.frames
  gated hc := ⟨(hh.gated hc).1, (hh.gated hc).2, hgate hc⟩
  future := hfut

/-- The invariant of an idle block: nothing held, nothing armed. -/
theorem of_idle {s : State} (hh : HeldInv s) (hx : s.txState = .idle) (hs : s.slot = none) (hq : s.queue = [])
    (hT : ∀ T, s.timerAt T = none) : RunInv s :=
  of_parts hh (fun _ => hq) (fun T => by simp only [hx, hT]; cases T <;> simp [Timer.runsIn]) (by simp [hx])
    (fun _ => ⟨hs, hq⟩) (fun _ => .inl hx) (by simp [hT])

/-- The invariant of a busy block: one timer armed, that of the protocol state, for no earlier than `now`. -/
theorem of_armed {s : State} {T : Timer} {te : Time} (hh : HeldInv s) (hst : Staged s) (hx : s.txState = T.runsIn)
    (hT : s.timerAt T = some te) (hother : ∀ T', T' ≠ T → s.timerAt T' = none) (hte : s.now ≤ te)
    (hflight : T = .txEnd → s.slot ≠ none) (hgate : T ≠ .pauseEnd → s.connected = true) : RunInv s := by
  refine of_parts hh hst (fun T' => ?_) (fun hc => hflight ?_) (fun hc => ?_) (fun hc => ?_) (fun T' te' ht => ?_)
  · by_cases h : T' = T
    · subst h
      simp [hx, hT]
    · simp [hx, hother T' h, Timer.runsIn_inj, Ne.symm h]
  · exact (Timer.runsIn_inj (T' := .txEnd)).1 (hx.symm.trans hc)
  · exact absurd (hx.symm.trans hc) T.runsIn_ne_idle
  · cases T with
    | pauseEnd => exact .inr hx
    | txEnd | ifgEnd => exact absurd (hgate nofun) (by simp [hc])
  · by_cases h : T' = T
    · subst h
      rw [hT] at ht
      cases ht
      exact hte
    · rw [hother T' h] at ht
      cases ht

/-- A change of the frames held keeps the invariant when the timers stay and the protocol state still fits. -/
theorem rehold {s t : State} (h : RunInv s) (hh : HeldInv t) (hst : Staged t) (ht : SameTimers s t)
    (hl : SameLaunch s t) (he : Extends s t) (hidle : t.txState = .idle → t.slot = none ∧ t.queue = [])
    (hflight : t.txState = .transmitting → t.slot ≠ none) : RunInv t :=
  of_parts hh hst (fun T => by rw [ht.txState, ht.timerAt]; exact h.armed_iff T) hflight hidle
    (fun hc => by rw [hl.connected] at hc; rw [ht.txState]; exact (h.gated hc).2.2)
    (fun T te hT => by rw [he.now]; exact h.future T te (by rw [← ht.timerAt]; exact hT))

end RunInv

end Sys2Proof.Machine
end

section
/-!
## Every rule keeps the invariant of RUN (R44)
-/

namespace Sys2Proof.Machine

/-! ### The frames held -/

theorem mode_ne_external {m : QueueMode} (h : m = .internal) : m ≠ .external := by simp [h]

theorem mode_ne_internal {m : QueueMode} (h : m = .external) : m ≠ .internal := by simp [h]

theorem HeldInv.unstage {s : State} (h : HeldInv s) : HeldInv { s with slot := none } where
  legal := h.legal
  internal := h.internal
  external hm := ⟨(h.external hm).1, fun _ => rfl⟩
  frames f hf := h.frames f (List.mem_append_right _ (by simpa [heldFrames] using hf))
  gated hc := ⟨rfl, (h.gated hc).2⟩

theorem refill_sameTimers (s : State) : SameTimers s (refill s) := by
  rcases refill_cases s with ⟨e, -⟩ | ⟨f, rest, -, -, -, e⟩ | ⟨-, -, -, e⟩ <;> rw [e]
  · exact .refl s
  · exact .of_eq rfl rfl rfl rfl
  · exact .of_eq rfl rfl rfl rfl

theorem refill_heldInv {s : State} (h : HeldInv s) : HeldInv (refill s) := by
  rcases refill_cases s with ⟨e, -⟩ | ⟨f, rest, hs, hm, hq, e⟩ | ⟨hs, hm, -, e⟩ <;> rw [e]
  · exact h
  · exact
      { legal := h.legal
        internal := fun _ => by
          have hb := h.internal hm
          simp only [hq, List.length_cons] at hb
          exact ⟨by simp only; omega, hb.2⟩
        external := fun hm' => absurd hm' (mode_ne_external hm)
        frames := fun g hg => h.frames g (by simpa [heldFrames, hs, hq] using hg)
        gated := fun hc => absurd ((h.gated hc).2.symm.trans hq) nofun }
  · exact .of_empty h.legal hs (h.external hm).1 fun hm' => absurd hm' (mode_ne_internal hm)

/-- After `refill` frames wait only behind a staged one (R110). -/
theorem refill_staged_after {s : State} (h : HeldInv s) : Staged (refill s) := by
  intro hs
  rcases refill_cases s with ⟨e, hs' | ⟨-, hq⟩ | ⟨hm, -⟩⟩ | ⟨f, rest, -, -, -, e⟩ | ⟨-, hm, -, e⟩ <;> rw [e] at hs ⊢
  · exact absurd hs hs'
  · exact hq
  · exact (h.external hm).1
  · cases hs
  · exact (h.external hm).1

/-- A frame within the maximum, once padded and given its source, is one the block may hold (R103). -/
theorem readied_frameOk {s : State} {f : Frame} (h : HeldInv s) (hk : f.kind ≠ .filler)
    (hl : f.len.toNat ≤ s.cfg.maxFrameBytes) : FrameOk s.cfg (readied s f) where
  srcValid := rfl
  minLen := by rw [readied_len]; exact Nat.le_max_right ..
  maxLen := by rw [readied_len]; exact Nat.max_le.2 ⟨hl, (validate_none h.legal).2.2.2.2.1⟩
  kind := hk

theorem admit_sameTimers {s t : State} {g : Frame} (h : admission g s = .ok t) : SameTimers s t := by
  rcases admit_ok_cases h with ⟨-, -, e⟩ | ⟨-, -, -, e⟩ | ⟨-, -, -, -, e⟩ | ⟨f, rest, -, -, -, -, e⟩ | ⟨-, -, e⟩ <;>
    rw [e] <;> exact .of_eq rfl rfl rfl rfl

/-- Admission empties no slot (R104, R105). -/
theorem admit_slot_none {s t : State} {g : Frame} (h : admission g s = .ok t) (ht : t.slot = none) : s.slot = none := by
  rcases admit_ok_cases h with ⟨-, -, e⟩ | ⟨-, -, -, e⟩ | ⟨-, -, hs, -, -⟩ | ⟨f, rest, -, -, hs, -, -⟩ | ⟨-, hs, -⟩
  · rwa [e] at ht
  · rwa [e] at ht
  all_goals exact hs

/-- Admission adds no frame to those held but the one admitted (R104, R105). -/
theorem admit_heldFrames {s t : State} {g f : Frame} (hst : Staged s) (ha : admission g s = .ok t)
    (hf : f ∈ heldFrames t) : f ∈ heldFrames s ∨ f = g := by
  rcases admit_ok_cases ha with ⟨-, -, rfl⟩ | ⟨-, -, -, rfl⟩ | ⟨-, -, -, hq, rfl⟩ | ⟨f', rest, -, -, hs, hq, -⟩ |
    ⟨-, hs, rfl⟩
  · exact .inl hf
  · simpa [heldFrames, or_assoc] using hf
  · exact .inr (by simpa [heldFrames, hq] using hf)
  · exact absurd ((hst hs).symm.trans hq) nofun
  · exact .inr (by simpa [heldFrames, hst hs] using hf)

theorem admit_heldInv {s t : State} {g : Frame} (h : HeldInv s) (hst : Staged s) (hg : FrameOk s.cfg g)
    (hc : s.connected = true) (ha : admission g s = .ok t) : HeldInv t ∧ Staged t := by
  have hl := admit_sameLaunch ha
  have hframes : ∀ f ∈ heldFrames t, FrameOk t.cfg f := fun f hf => by
    rw [hl.cfg]
    exact (admit_heldFrames hst ha hf).elim (h.frames f) fun e => e ▸ hg
  have hgate : t.connected = false → t.slot = none ∧ t.queue = [] := fun hc' => by simp [hl.connected, hc] at hc'
  rcases admit_ok_cases ha with ⟨-, -, rfl⟩ | ⟨hm, hb, hs, rfl⟩ | ⟨hm, -, -, -, rfl⟩ | ⟨f, rest, -, -, hs, hq, -⟩ |
    ⟨hm, -, rfl⟩
  · exact ⟨⟨h.legal, h.internal, h.external, hframes, hgate⟩, hst⟩
  · exact ⟨⟨h.legal, fun _ => ⟨by simpa using hb, (h.internal hm).2⟩, fun hm' => absurd hm' (mode_ne_external hm),
      hframes, hgate⟩, fun hs' => absurd hs' hs⟩
  · exact ⟨⟨h.legal, h.internal, fun hm' => absurd hm' (mode_ne_external hm), hframes, hgate⟩, nofun⟩
  · exact absurd ((hst hs).symm.trans hq) nofun
  · exact ⟨⟨h.legal, fun hm' => absurd hm' (mode_ne_internal hm), fun _ => ⟨(h.external hm).1, nofun⟩, hframes, hgate⟩,
      nofun⟩

/-! ### The transmission controller -/

theorem started_runInv {s : State} {f : Frame} (h : HeldInv s) (hs : s.slot = some f) (hc : s.connected = true)
    (hT : ∀ T, s.timerAt T = none) : RunInv (started f s) := by
  have hslot : (started f s).slot = some f := by simpa [started] using hs
  refine .of_armed (T := .txEnd) (te := s.now + s.cfg.wireTime (wireFrame s f).wireLen)
    (h.same rfl rfl rfl rfl rfl rfl) (fun hn => absurd (hslot.symm.trans hn) nofun) rfl rfl ?_ ?_
    (fun _ => by simp [hslot]) (fun _ => hc)
  · intro T hne
    cases T with
    | txEnd => exact absurd rfl hne
    | ifgEnd => exact hT .ifgEnd
    | pauseEnd => exact hT .pauseEnd
  · exact le_add_of_nonneg_right (wireTime_nonneg _ _ h.lineRate_ne)

theorem drained_runInv {s : State} (h : HeldInv s) (hT : ∀ T, s.timerAt T = none) : RunInv (drained s) := by
  unfold drained
  split <;> rename_i hm
  · exact .of_idle (.of_empty h.legal rfl rfl fun hm' => (h.internal hm').2) rfl rfl rfl
      fun T => (timerAt_congr rfl rfl rfl T).trans (hT T)
  · have hq := (h.external hm).1
    exact .of_idle (.of_empty h.legal rfl hq fun hm' => absurd hm' (mode_ne_internal hm)) rfl rfl hq
      fun T => (timerAt_congr rfl rfl rfl T).trans (hT T)

/-- With no timer armed, `beginSendFrames` reaches a state of the invariant, whatever is staged (R120, R121). -/
theorem beginSendFrames_runInv {s t : State} (h : HeldInv s) (hst : Staged s) (hx : s.txState ≠ .transmitting)
    (hT : ∀ T, s.timerAt T = none) (hb : beginSendFrames s = .ok t) : RunInv t := by
  rcases beginSendFrames_cases s with ⟨hx', -⟩ | ⟨-, hs, e⟩ | ⟨f, -, hs, hg, e⟩ | ⟨f, -, -, -, e⟩
  · exact absurd hx' hx
  all_goals
    rw [e] at hb
    cases hb
  · exact .of_idle (h.same rfl rfl rfl rfl rfl rfl) rfl hs (hst hs)
      fun T => (timerAt_congr rfl rfl rfl T).trans (hT T)
  · exact started_runInv h hs ((gateOpen_iff s).1 hg).1 hT
  · exact drained_runInv h hT

/-- A pause may begin whenever no other timer is armed (R131). -/
theorem schedulePause_runInv {s : State} (u : Half) (h : HeldInv s) (hst : Staged s) (h1 : s.txEndAt = none)
    (h2 : s.ifgEndAt = none) :
    RunInv { s with pauseEndAt := some (s.now + s.cfg.pauseTime u), txState := .paused } := by
  refine .of_armed (T := .pauseEnd) (te := s.now + s.cfg.pauseTime u) (h.same rfl rfl rfl rfl rfl rfl) hst rfl rfl ?_
    (le_add_of_nonneg_right (pauseTime_nonneg _ _ h.lineRate_ne)) nofun (fun hc => absurd rfl hc)
  intro T hne
  cases T with
  | txEnd => exact h1
  | ifgEnd => exact h2
  | pauseEnd => exact absurd rfl hne

/-- With no timer armed, a connected block goes to its pause or its gap (R127). -/
theorem pauseOrGap_runInv {s : State} (h : HeldInv s) (hst : Staged s) (hT : ∀ T, s.timerAt T = none)
    (hc : s.connected = true) : RunInv (pauseOrGap s) := by
  rw [pauseOrGap_eq]
  split
  · exact (schedulePause_runInv s.pendingPause h hst (hT .txEnd) (hT .ifgEnd)).same rfl rfl rfl rfl rfl rfl rfl rfl rfl
      rfl rfl
  · refine .of_armed (T := .ifgEnd) (te := s.now + s.cfg.gapTime) (h.same rfl rfl rfl rfl rfl rfl) hst rfl rfl ?_
      (le_add_of_nonneg_right (gapTime_nonneg _ h.lineRate_ne)) nofun (fun _ => hc)
    intro T hne
    cases T with
    | txEnd => exact hT .txEnd
    | ifgEnd => exact absurd rfl hne
    | pauseEnd => exact hT .pauseEnd

/-- The transmission finalised, before the next frame is staged: only counters, slot and finish time are written. -/
theorem finalised_heldInv {s : State} (f : Frame) (h : HeldInv s) :
    HeldInv { countSent f s with slot := none, lastTxFinishTime := some s.now } := by
  rw [countSent_eq]
  exact h.unstage.same rfl rfl rfl rfl rfl rfl

theorem finalised_sameTimers (f : Frame) (s : State) :
    SameTimers s { countSent f s with slot := none, lastTxFinishTime := some s.now } := by
  rw [countSent_eq]
  exact .of_eq rfl rfl rfl rfl

theorem onTransmissionEnd_runInv {s : State} (f : Frame) (h : HeldInv s) (hT : ∀ T, s.timerAt T = none)
    (hc : s.connected = true) : RunInv (onTransmissionEnd f s) := by
  have hh := finalised_heldInv f h
  have ht := (finalised_sameTimers f s).trans (refill_sameTimers _)
  refine pauseOrGap_runInv (refill_heldInv hh) (refill_staged_after hh) (fun T => (ht.timerAt T).trans (hT T)) ?_
  rw [(refill_sameLaunch _).connected, countSent_eq]
  exact hc

theorem txEndBody_runInv {s t : State} (h : RunInv s) (hb : txEndBody (s.disarm .txEnd) = .ok t) : RunInv t := by
  obtain ⟨f, hx, -, rfl⟩ := txEndBody_ok hb
  rw [State.disarm_txState] at hx
  refine onTransmissionEnd_runInv f (h.heldInv.disarm _) (h.disarm_unarmed hx) ?_
  rw [State.disarm_connected]
  exact h.connected (by simp [hx]) (by simp [hx])

/-- The end of the gap or of a pause (R128, R130). -/
theorem waitEnd_runInv {s t : State} {T : Timer} (h : RunInv s) (hT : T ≠ .txEnd) (hx : s.txState = T.runsIn)
    (hb : beginSendFrames (s.disarm T) = .ok t) : RunInv t := by
  refine beginSendFrames_runInv (h.heldInv.disarm T) ?_ ?_ (h.disarm_unarmed hx) hb
  · simpa [Staged] using h.staged
  · rw [State.disarm_txState, hx]
    exact fun hc => hT ((Timer.runsIn_inj (T' := .txEnd)).1 hc)

/-! ### SUBMIT, RX, the host's events -/

/-- Counting a frame touches nothing the invariant reads. -/
theorem RunInv.addTo {s : State} (h : RunInv s) (k : Ctr) (n : Nat) : RunInv (s.addTo k n) :=
  h.same rfl rfl rfl rfl rfl rfl rfl rfl rfl rfl rfl

theorem dropAtGate_runInv {s : State} (h : RunInv s) : RunInv (dropAtGate s) := by
  cases hm : s.cfg.queueMode with
  | internal =>
    rw [dropAtGate_internal hm]
    exact h.same rfl rfl rfl rfl rfl rfl rfl rfl rfl rfl rfl
  | external =>
    by_cases hs : s.slot = none
    · have hq := (h.external hm).1
      have hh : HeldInv (dropAtGate s) := by
        rw [dropAtGate_external_empty hm hs]
        exact .of_empty h.legal hs hq fun hm' => absurd hm' (mode_ne_internal hm)
      refine h.rehold hh ?_ ?_ (dropAtGate_sameLaunch s) (dropAtGate_extends s) ?_ ?_ <;>
        rw [dropAtGate_external_empty hm hs]
      · exact fun _ => hq
      · exact .of_eq rfl rfl rfl rfl
      · exact fun _ => ⟨hs, hq⟩
      · exact h.inFlight
    · have hp : s.pullPending = false := Bool.eq_false_iff.2 fun hp => hs ((h.external hm).2 hp)
      rw [dropAtGate_external_staged hm hs]
      exact h.same rfl rfl rfl rfl rfl rfl rfl rfl hp.symm rfl rfl

/-- A frame admitted waits behind the frame in flight, or starts at once when the engine is idle (R104 to R106). -/
theorem admit_start_runInv {s u t : State} {g : Frame} (h : RunInv s) (hg : FrameOk s.cfg g)
    (hc : s.connected = true) (ha : admission g s = .ok u) (hb : startIfIdle u = .ok t) : RunInv t := by
  obtain ⟨hh, hst⟩ := admit_heldInv h.heldInv h.staged hg hc ha
  have ht := admit_sameTimers ha
  by_cases hi : u.txState = .idle
  · rw [startIfIdle_idle hi] at hb
    refine beginSendFrames_runInv hh hst (by simp [hi]) (fun T => (ht.timerAt T).trans (h.unarmed ?_)) hb
    rw [← ht.txState, hi]
    exact T.runsIn_ne_idle.symm
  · rw [startIfIdle_busy hi] at hb
    cases hb
    refine h.rehold hh hst ht (admit_sameLaunch ha) (admit_extends ha) (fun hc => absurd hc hi) fun hx hn => ?_
    exact h.inFlight (ht.txState ▸ hx) (admit_slot_none ha hn)

theorem submitBody_runInv {s t : State} {f : Frame} (h : RunInv s) (hk : f.kind ≠ .filler)
    (hb : submitBody f s = .ok t) : RunInv t := by
  obtain ⟨-, hl, ⟨-, rfl⟩ | ⟨hg, u, ha, hs⟩⟩ := submitBody_ok_cases hb
  · exact dropAtGate_runInv (h.addTo ..)
  · exact admit_start_runInv (h.addTo ..) (readied_frameOk (s := s) h.heldInv hk hl) ((gateOpen_iff s).1 hg).1 ha hs

theorem processPauseCommand_runInv {s : State} (u : Half) (h : RunInv s) : RunInv (processPauseCommand u s) := by
  rw [processPauseCommand_eq]
  split <;> rename_i hx
  · split
    · exact h
    · exact schedulePause_runInv u h.heldInv h.staged (h.txEndAt_none (by simp [hx])) (h.ifgEndAt_none (by simp [hx]))
  · exact schedulePause_runInv u h.heldInv h.staged (h.txEndAt_none (by simp [hx])) (h.ifgEndAt_none (by simp [hx]))
  · exact h.same rfl rfl rfl rfl rfl rfl rfl rfl rfl rfl rfl
  · exact h.same rfl rfl rfl rfl rfl rfl rfl rfl rfl rfl rfl

theorem rxDataBody_runInv {s : State} (f : Frame) (h : RunInv s) : RunInv (rxDataBody f s) := by
  rcases rxDataBody_cases f s with ⟨-, e⟩ | ⟨-, -, -, e⟩ | ⟨-, -, -, e⟩ | ⟨-, -, -, e⟩ | ⟨-, -, -, e⟩ <;> rw [e]
  · exact h.addTo ..
  · exact h.addTo ..
  · exact h.addTo ..
  · exact h
  · rw [deliverData_eq]
    exact h.same rfl rfl rfl rfl rfl rfl rfl rfl rfl rfl rfl

theorem rxPauseBody_runInv {s : State} (f : Frame) (h : RunInv s) : RunInv (rxPauseBody f s) := by
  rcases rxPauseBody_cases f s with ⟨-, e⟩ | ⟨-, -, e⟩ | ⟨-, -, -, e⟩ <;> rw [e]
  · exact h.addTo ..
  · exact h
  · exact processPauseCommand_runInv _ ((h.addTo ..).addTo ..)

theorem setAdminBody_runInv {d : Bool} {s t : State} (h : RunInv s) (hb : setAdminBody d s = .ok t) : RunInv t := by
  rcases setAdminBody_cases d s with ⟨-, e⟩ | ⟨-, -, hx, e⟩ <;> rw [e] at hb
  · cases hb
    exact h.same rfl rfl rfl rfl rfl rfl rfl rfl rfl rfl rfl
  · have hh : HeldInv { s with disabled := false } := h.heldInv.same rfl rfl rfl rfl rfl rfl
    have ht : SameTimers s (refill { s with disabled := false }) :=
      (SameTimers.of_eq rfl rfl rfl rfl : SameTimers s { s with disabled := false }).trans (refill_sameTimers _)
    refine beginSendFrames_runInv (refill_heldInv hh) (refill_staged_after hh) (by rw [ht.txState, hx]; exact nofun)
      (fun T => (ht.timerAt T).trans (h.unarmed ?_)) hb
    rw [hx]
    exact T.runsIn_ne_idle.symm

/-- A legal SETUP starts the engine in the invariant (R180, R182, R186). -/
theorem setupBody_runInv {s t : State} (hb : setupBody s = .ok t) : RunInv t := by
  obtain ⟨hl, rfl⟩ := setupBody_ok hb
  split <;> rename_i hm
  · exact .of_idle (.of_empty hl rfl rfl fun _ => rfl) rfl rfl rfl (fun T => by cases T <;> rfl)
  · exact .of_idle (.of_empty hl rfl rfl fun hm' => absurd hm' (mode_ne_internal hm)) rfl rfl rfl
      (fun T => by cases T <;> rfl)

/-! ### The step -/

/-- No rule but SETUP's enters RUN, and every rule that ends there ends in the invariant. -/
theorem bodyOf_inv {i : Instr} {s t : State} (h : Inv s) (hb : bodyOf i s = .ok t) : Inv t := by
  intro hr
  have hp := (bodyOf_phase hb).symm.trans hr
  cases i
  case setup => exact setupBody_runInv hb
  case reset | shutdown => cases hp
  all_goals
    have h := h hp
    simp only [bodyOf] at hb
  case submitData o => exact submitBody_runInv h (by simp [frameOfSubmit]) hb
  case submitPause o => exact submitBody_runInv h (by simp [frameOfSubmit]) hb
  case submitFiller o => cases hb; exact h
  case rxData o => cases hb; exact rxDataBody_runInv _ h
  case rxPause o => cases hb; exact rxPauseBody_runInv _ h
  case rxFiller o => cases hb; exact h
  case txEnd => exact txEndBody_runInv h hb
  case ifgEnd =>
    obtain ⟨hx, hb⟩ := ifgEndBody_ok hb
    exact waitEnd_runInv (T := .ifgEnd) h nofun ((State.disarm_txState ..).symm.trans hx) hb
  case pauseEnd =>
    obtain ⟨hx, hb⟩ := pauseEndBody_ok hb
    exact waitEnd_runInv (T := .pauseEnd) h nofun ((State.disarm_txState ..).symm.trans hx) hb
  case setAdmin d => exact setAdminBody_runInv h hb

/-- Taking the next event in hand keeps the invariant. -/
theorem InHand.inv {s u : State} (hand : InHand s u) (h : Inv s) : Inv u := by
  intro hr
  refine (h (hand.phase ▸ hr)).same ?_ ?_ ?_ ?_ ?_ ?_ ?_ ?_ ?_ ?_ ?_ <;> rw [hand.eq]

/-- Time moves to the stamp of the event in hand within the invariant: no armed timer is passed (R44 item 8, R211). -/
theorem InHand.arrive_inv {s u : State} (hand : InHand s u) (h : Inv s) : Inv u.arrive := fun hr =>
  (hand.inv h hr).arrive fun T te hT => hand.due (hand.phase ▸ hr) T te (hand.timerAt T ▸ hT)

/-- Settles O51: the event in hand, refused, halted or run by its rule, leads from the invariant into it. -/
theorem stepKeepsTheInvariant : Obligations.StepKeepsTheInvariant := by
  intro s t h hst
  cases step_outcome hst with
  | waits => exact h
  | refused hand => exact fun hr => (hand.inv h hr).same rfl rfl rfl rfl rfl rfl rfl rfl rfl rfl rfl
  | accepted hand _ body => exact bodyOf_inv (hand.arrive_inv h) body
  | halted => exact nofun

end Sys2Proof.Machine
end

section
/-!
## When a frame goes on the wire

An accepted event either emits no OUT_TX or, as its last act, starts the staged frame; both safety claims about OUT_TX
rest on that one split.
-/

namespace Sys2Proof.Machine

/-- `t` appends to the trace of `s` no OUT_TX record. -/
def Silent (s t : State) : Prop := ∃ new, t.out = s.out ++ new ∧ ∀ r ∈ new, r.event.isTx = false

namespace Silent

theorem of_out_eq {s t : State} (h : t.out = s.out) : Silent s t := ⟨[], by simp [h]⟩

theorem of_emit {s t : State} {r : OutRecord} (h : t.out = s.out ++ [r]) (hr : r.event.isTx = false) : Silent s t :=
  ⟨[r], h, by simpa using hr⟩

theorem trans {s t u : State} (h : Silent s t) (k : Silent t u) : Silent s u := by
  obtain ⟨a, ha, hat⟩ := h
  obtain ⟨b, hb, hbt⟩ := k
  refine ⟨a ++ b, by rw [hb, ha, List.append_assoc], fun r hr => ?_⟩
  exact (List.mem_append.1 hr).elim (hat r) (hbt r)

/-- The records a silent change appends, however they are named. -/
theorem isTx_false {s t : State} (h : Silent s t) {new : List OutRecord} (he : t.out = s.out ++ new) :
    ∀ r ∈ new, r.event.isTx = false := by
  obtain ⟨a, ha, hat⟩ := h
  obtain rfl : new = a := List.append_cancel_left (he.symm.trans ha)
  exact hat

end Silent

/-- `t` is what follows `s` when a rule, silent until then, puts a staged frame on the wire (R120, R123). -/
def Launches (s t : State) : Prop :=
  ∃ f v, Silent s v ∧ v.phase = s.phase ∧ v.connected = s.connected ∧ v.txState = s.txState ∧
    v.txState ≠ .transmitting ∧ v.connected = true ∧ v.slot = some f ∧ t = started f v

/-- Silent changes that keep phase, connectivity and protocol state may precede a launch. -/
theorem Launches.after {s u t : State} (h : Launches u t) (hs : Silent s u) (h1 : u.phase = s.phase)
    (h2 : u.connected = s.connected) (h3 : u.txState = s.txState) : Launches s t := by
  obtain ⟨f, v, hv, k1, k2, k3, hx, hc, hf, rfl⟩ := h
  exact ⟨f, v, hs.trans hv, k1.trans h1, k2.trans h2, k3.trans h3, hx, hc, hf, rfl⟩

/-- A launch appends exactly one OUT_TX record. -/
theorem Launches.filter_length {s t : State} (h : Launches s t) {new : List OutRecord} (he : t.out = s.out ++ new) :
    (new.filter fun r => r.event.isTx).length = 1 := by
  obtain ⟨f, v, ⟨a, ha, hat⟩, -, -, -, -, -, -, rfl⟩ := h
  have hout : (started f v).out = s.out ++ (a ++ [⟨v.now, .tx (wireFrame v f)⟩]) := by simp [started, ha]
  obtain rfl := List.append_cancel_left (he.symm.trans hout)
  have hnil : a.filter (fun r => r.event.isTx) = [] := List.filter_eq_nil_iff.2 fun r hr => by simp [hat r hr]
  rw [List.filter_append, hnil]
  rfl

/-! ### Rule by rule -/

theorem refill_silent (s : State) : Silent s (refill s) := by
  rcases refill_cases s with ⟨e, -⟩ | ⟨f, rest, -, -, -, e⟩ | ⟨-, -, -, e⟩ <;> rw [e]
  · exact .of_out_eq rfl
  · exact .of_out_eq rfl
  · exact .of_emit rfl rfl

theorem drained_silent (s : State) : Silent s (drained s) := by
  unfold drained
  split
  · exact .of_out_eq rfl
  · cases hp : s.pullPending
    · exact .of_emit rfl rfl
    · exact .of_out_eq rfl

theorem beginSendFrames_silent_or_launches {s t : State} (h : beginSendFrames s = .ok t) :
    Silent s t ∨ Launches s t := by
  rcases beginSendFrames_cases s with ⟨-, e⟩ | ⟨-, -, e⟩ | ⟨f, hx, hs, hg, e⟩ | ⟨f, -, -, -, e⟩ <;> rw [e] at h <;>
    cases h
  · exact .inl (.of_out_eq rfl)
  · exact .inl (.of_out_eq rfl)
  · exact .inr ⟨f, s, .of_out_eq rfl, rfl, rfl, rfl, hx, ((gateOpen_iff s).1 hg).1, hs, rfl⟩
  · exact .inl (drained_silent s)

/-- Silent changes, then `beginSendFrames`. -/
theorem beginSendFrames_after {s u t : State} (hs : Silent s u) (hl : u.phase = s.phase)
    (hc : u.connected = s.connected) (hx : u.txState = s.txState) (h : beginSendFrames u = .ok t) :
    Silent s t ∨ Launches s t :=
  (beginSendFrames_silent_or_launches h).imp hs.trans fun k => k.after hs hl hc hx

theorem dropAtGate_silent (s : State) : Silent s (dropAtGate s) := by
  cases hm : s.cfg.queueMode with
  | internal => rw [dropAtGate_internal hm]; exact .of_out_eq rfl
  | external =>
    cases hs : s.slot with
    | none => rw [dropAtGate_external_empty hm hs]; exact .of_emit rfl rfl
    | some f => rw [dropAtGate_external_staged hm (by simp [hs])]; exact .of_out_eq rfl

theorem admit_silent {s t : State} {g : Frame} (h : admission g s = .ok t) : Silent s t := by
  rcases admit_ok_cases h with ⟨-, -, e⟩ | ⟨-, -, -, e⟩ | ⟨-, -, -, -, e⟩ | ⟨f, rest, -, -, -, -, e⟩ | ⟨-, -, e⟩ <;> rw [e]
  · exact .of_emit rfl rfl
  all_goals exact .of_out_eq rfl

theorem submitBody_silent_or_launches {s t : State} {f : Frame} (h : submitBody f s = .ok t) :
    Silent s t ∨ Launches s t := by
  obtain ⟨-, -, ⟨-, rfl⟩ | ⟨-, u, ha, hb⟩⟩ := submitBody_ok_cases h
  · exact .inl (dropAtGate_silent (s.addTo .fromUpper 1))
  · have hu : Silent s u := admit_silent (s := s.addTo .fromUpper 1) ha
    have hl := admit_sameLaunch ha
    by_cases hi : u.txState = .idle
    · rw [startIfIdle_idle hi] at hb
      exact beginSendFrames_after hu hl.phase hl.connected (admit_sameTimers ha).txState hb
    · rw [startIfIdle_busy hi] at hb
      cases hb
      exact .inl hu

theorem processPauseCommand_silent (u : Half) (s : State) : Silent s (processPauseCommand u s) := by
  rw [processPauseCommand_eq]
  split
  · split <;> exact .of_out_eq rfl
  all_goals exact .of_out_eq rfl

theorem rxDataBody_silent (f : Frame) (s : State) : Silent s (rxDataBody f s) := by
  rcases rxDataBody_cases f s with ⟨-, e⟩ | ⟨-, -, -, e⟩ | ⟨-, -, -, e⟩ | ⟨-, -, -, e⟩ | ⟨-, -, -, e⟩ <;> rw [e]
  · exact .of_out_eq rfl
  · exact .of_out_eq rfl
  · exact .of_out_eq rfl
  · exact .of_out_eq rfl
  · rw [deliverData_eq]; exact .of_emit rfl rfl

theorem rxPauseBody_silent (f : Frame) (s : State) : Silent s (rxPauseBody f s) := by
  rcases rxPauseBody_cases f s with ⟨-, e⟩ | ⟨-, -, e⟩ | ⟨-, -, -, e⟩ <;> rw [e]
  · exact .of_out_eq rfl
  · exact .of_out_eq rfl
  · exact processPauseCommand_silent f.pauseUnits ((s.addTo .rxPause 1).addTo .rxPauseUnits f.pauseUnits.toNat)

theorem onTransmissionEnd_silent (f : Frame) (s : State) : Silent s (onTransmissionEnd f s) := by
  have h1 : Silent s { countSent f s with slot := none, lastTxFinishTime := some s.now } := by
    rw [countSent_eq]
    exact .of_out_eq rfl
  refine (h1.trans (refill_silent _)).trans ?_
  rw [onTransmissionEnd, pauseOrGap_eq]
  split <;> exact .of_out_eq rfl

theorem waitEnd_silent_or_launches {s t : State} {T : Timer} (h : beginSendFrames (s.disarm T) = .ok t) :
    Silent s t ∨ Launches s t :=
  beginSendFrames_after (.of_out_eq (s.disarm_out T)) (s.disarm_phase T) (s.disarm_connected T) (s.disarm_txState T) h

theorem setAdminBody_silent_or_launches {d : Bool} {s t : State} (h : setAdminBody d s = .ok t) :
    Silent s t ∨ Launches s t := by
  rcases setAdminBody_cases d s with ⟨-, e⟩ | ⟨-, -, -, e⟩ <;> rw [e] at h
  · cases h
    exact .inl (.of_out_eq rfl)
  · have hl := refill_sameLaunch { s with disabled := false }
    exact beginSendFrames_after (refill_silent { s with disabled := false }) hl.phase hl.connected
      (refill_sameTimers _).txState h

/-- An accepted event emits no OUT_TX, or starts a frame, which only an event of phase RUN does. -/
theorem bodyOf_silent_or_launches {i : Instr} {s t : State} (h : bodyOf i s = .ok t) :
    Silent s t ∨ (Launches s t ∧ i ≠ .setup ∧ i ≠ .reset) := by
  cases i <;> simp only [bodyOf] at h
  case submitData o => exact (submitBody_silent_or_launches h).imp_right fun k => ⟨k, nofun, nofun⟩
  case submitPause o => exact (submitBody_silent_or_launches h).imp_right fun k => ⟨k, nofun, nofun⟩
  case submitFiller o => cases h; exact .inl (.of_out_eq rfl)
  case rxData o => cases h; exact .inl (rxDataBody_silent ..)
  case rxPause o => cases h; exact .inl (rxPauseBody_silent ..)
  case rxFiller o => cases h; exact .inl (.of_out_eq rfl)
  case txEnd =>
    obtain ⟨f, -, -, rfl⟩ := txEndBody_ok h
    exact .inl ((Silent.of_out_eq (s.disarm_out .txEnd)).trans (onTransmissionEnd_silent ..))
  case ifgEnd => exact (waitEnd_silent_or_launches (ifgEndBody_ok h).2).imp_right fun k => ⟨k, nofun, nofun⟩
  case pauseEnd => exact (waitEnd_silent_or_launches (pauseEndBody_ok h).2).imp_right fun k => ⟨k, nofun, nofun⟩
  case setAdmin d => exact (setAdminBody_silent_or_launches h).imp_right fun k => ⟨k, nofun, nofun⟩
  case shutdown =>
    cases h
    unfold shutdownBody
    split
    · exact .inl (.of_emit rfl rfl)
    · exact .inl (.of_out_eq rfl)
  case setup =>
    obtain ⟨-, rfl⟩ := setupBody_ok h
    split
    · exact .inl (.of_out_eq rfl)
    · exact .inl (.of_emit rfl rfl)
  case reset =>
    cases h
    split
    · exact .inl (.of_emit rfl rfl)
    · exact .inl (.of_out_eq rfl)

theorem halt_silent (s : State) (code : Fatal) (info : FaultInfo) : Silent s (s.halt code info) := .of_emit rfl rfl

/-- Every event but SETUP and RESET is accepted in RUN only (R220). -/
theorem phase_of_accepted {i : Instr} {s : State} (h : ¬ RefusedEvent i s) (h1 : i ≠ .setup) (h2 : i ≠ .reset) :
    s.phase = .run := by
  cases i
  case submitFiller => exact absurd trivial h
  case setup => exact absurd rfl h1
  case reset => exact absurd rfl h2
  all_goals exact not_not.1 fun hc => h (.inl hc)

/-! ### The two claims -/

/-- Settles O53: a step that is not silent launches a frame, once, out of a state that was not transmitting. -/
theorem atMostOneFrameInFlight : Obligations.AtMostOneFrameInFlight := by
  intro s t new _ hst hout ⟨r, hr, htx⟩
  have hloud : ¬ Silent s t := fun k => absurd htx (by simp [k.isTx_false hout r hr])
  cases step_outcome hst with
  | waits => exact absurd (.of_out_eq rfl) hloud
  | refused hand => exact absurd (.of_out_eq hand.out) hloud
  | halted hand => exact absurd ((Silent.of_out_eq hand.out).trans (halt_silent ..)) hloud
  | @accepted u _ i hand acc body =>
    have hu : Silent s u.arrive := .of_out_eq hand.out
    rcases bodyOf_silent_or_launches body with k | ⟨k, h1, h2⟩
    · exact absurd (hu.trans k) hloud
    · have hl : Launches s t := k.after hu hand.phase hand.connected hand.txState
      refine ⟨hl.filter_length hout, ?_⟩
      have hrun : s.phase = .run := hand.phase.symm.trans (phase_of_accepted acc h1 h2)
      obtain ⟨f, v, -, hp, -, hxs, hx, -, hs, rfl⟩ := hl
      exact ⟨hxs ▸ hx, by simpa [started, hrun] using hp, rfl, by simp [started, hs], by simp [started]⟩

/-- Settles O55: a launch needs a connected block. -/
theorem disconnectedNeverTransmits : Obligations.DisconnectedNeverTransmits := by
  intro i s t new _ hc he hout
  suffices hs : Silent s t from hs.isTx_false hout
  rcases exec_cases i s with ⟨-, e⟩ | ⟨v, -, body, e⟩ | ⟨code, info, -, -, e⟩ <;> rw [e] at he <;> cases he
  · exact .of_out_eq rfl
  · rcases bodyOf_silent_or_launches body with k | ⟨⟨f, v, -, -, hvc, -, -, hv, -, -⟩, -, -⟩
    · exact k
    · exact absurd ((hv.symm.trans hvc).trans hc) nofun
  · exact halt_silent ..

end Sys2Proof.Machine
end

section
/-!
## What every step keeps (R42, R46, R71, R213)
-/

namespace Sys2Proof.Machine

/-- Settles O14: an accepted event moves time to its stamp, which is not in the past, and no rule writes the mark. -/
theorem markIsStickyAndTimeNeverDecreases : Obligations.MarkIsStickyAndTimeNeverDecreases := by
  intro s t hst
  cases step_outcome hst with
  | waits => exact ⟨le_refl _, id⟩
  | refused hand => exact ⟨hand.now.ge, fun _ => rfl⟩
  | accepted hand acc body =>
    have he := bodyOf_extends body
    exact ⟨by rw [he.now, ← hand.now]; exact stamp_of_accepted acc,
      fun hr => he.refused.trans (hand.refused.trans hr)⟩
  | halted hand inOrder => exact ⟨hand.now ▸ inOrder, fun hr => hand.refused.trans hr⟩

/-- Settles O16: a rule appends records stamped with the event's time; a halt appends its one record. -/
theorem traceOnlyGrows : Obligations.TraceOnlyGrows := by
  intro s t hst
  cases step_outcome hst with
  | waits => exact ⟨[], by simp⟩
  | refused hand => exact ⟨[], by simp [hand.out]⟩
  | accepted hand _ body =>
    have he := bodyOf_extends body
    obtain ⟨new, hout, htime⟩ := he.out
    exact ⟨new, hout.trans (congrArg (· ++ new) hand.out), fun r hr => (htime r hr).trans he.now.symm⟩
  | @halted u code info hand =>
    exact ⟨[⟨u.cur.stamp, .halt code info⟩], congrArg (· ++ _) hand.out, by simp [State.halt]⟩

/-- The registers that SETUP writes and that nothing but RESET writes again (R71). -/
structure SameSetup (s t : State) : Prop where
  cfg : t.cfg = s.cfg
  address : t.address = s.address
  connected : t.connected = s.connected
  tSetup : t.tSetup = s.tSetup

theorem SameLaunch.sameSetup {s t : State} (h : SameLaunch s t) : SameSetup s t :=
  ⟨h.cfg, h.address, h.connected, h.tSetup⟩

/-- No rule but those of SETUP and RESET writes what SETUP wrote (R71, R183). -/
theorem bodyOf_sameSetup {i : Instr} {s t : State} (h : bodyOf i s = .ok t) (h1 : i ≠ .setup) (h2 : i ≠ .reset) :
    SameSetup s t := by
  cases i
  case setup => exact absurd rfl h1
  case reset => exact absurd rfl h2
  case shutdown =>
    cases h
    unfold shutdownBody
    split <;> exact ⟨rfl, rfl, rfl, rfl⟩
  case setAdmin d =>
    obtain ⟨hc, ha, hn, ht⟩ := (setAdminBody_sameLaunch h).sameSetup
    exact ⟨hc, ha, hn, ht⟩
  all_goals exact (bodyOf_sameLaunch h (by simp)).sameSetup

/-- Settles O57: SETUP begins in UNINIT and RESET ends there, and no other event writes these registers. -/
theorem setupValuesAreReadOnly : Obligations.SetupValuesAreReadOnly := by
  intro s t hst hs ht
  suffices h : SameSetup s t from ⟨h.cfg, h.address, h.connected, h.tSetup⟩
  cases step_outcome hst with
  | waits => exact ⟨rfl, rfl, rfl, rfl⟩
  | refused hand | halted hand => exact ⟨hand.cfg, hand.address, hand.connected, hand.tSetup⟩
  | @accepted u _ i hand acc body =>
    have h1 : i ≠ .setup := by
      rintro rfl
      exact hs (hand.phase.symm.trans (phase_of_accepted_setup acc))
    have h2 : i ≠ .reset := by
      rintro rfl
      exact ht (bodyOf_phase body)
    obtain ⟨hc, ha, hn, ht⟩ := bodyOf_sameSetup body h1 h2
    exact ⟨hc.trans hand.cfg, ha.trans hand.address, hn.trans hand.connected, ht.trans hand.tSetup⟩

end Sys2Proof.Machine
end

section
/-! ## The earliest timer (R34, R211) -/

namespace Sys2Proof.Machine

/-- A timer strictly earlier than the other candidates is the one fetched, as its own event at its expiry. -/
theorem fetch_timerFirst {s : State} {T : Timer} {te : Time} (h : TimerFirst s T te) :
    fetch s = (.event T.event, firingAt s te) := by
  have hT : s.timerAt T = some te := h.2.1
  rw [fetch, choose_single (enabled_timerFirst h)]
  simp only [take, hT, firingAt]

/-- Settles O9. -/
theorem stepFiresTheEarliestTimer : Obligations.StepFiresTheEarliestTimer := by
  intro s T te h
  rw [step, fetch_timerFirst h]
  cases T <;> rfl

end Sys2Proof.Machine
end

section
/-! ## The receive ratios (R41, R243) -/

namespace Sys2Proof.Machine

theorem ratios_undefined {s : State} (h : setupDone s = false ∨ s.now = s.tSetup) :
    utilisation s = none ∧ idleRatio s = none := by
  simp [idleRatio, utilisation, h]

theorem ratios_defined {s : State} (hd : setupDone s = true) (hn : s.now ≠ s.tSetup) :
    utilisation s = some (s.rxOkTime / (s.now - s.tSetup)) ∧
      idleRatio s = some (1 - s.rxOkTime / (s.now - s.tSetup)) := by
  simp [idleRatio, utilisation, hd, hn]

/-- Settles O45: whether a SETUP has completed is read off the phase and the fatal code. -/
theorem receiveRatiosFollowTheirRule : Obligations.ReceiveRatiosFollowTheirRule := by
  intro s
  refine ⟨fun hp => ratios_undefined (.inl ?_), fun code info hp hf hc => ratios_undefined (.inl ?_),
    fun hn => ratios_undefined (.inr hn), fun hd hn => ratios_defined ((setupDone_iff s).2 hd) hn⟩
  · simp [setupDone, hp]
  · simp [setupDone, hp, hf, (raisedBySetup_iff code).2 hc]

end Sys2Proof.Machine
end

section
/-! ## The configuration record (R37, R88) -/

namespace Sys2Proof.Machine

/-- The record is the sum of its registers, each at its place (R88). -/
theorem CfgRegs.toRecord_toNat (c : CfgRegs) :
    c.toRecord.toNat = c.cfgAddr.toNat + c.cfgMode.toNat * 2 ^ 64 + c.cfgLineRate.toNat * 2 ^ 128 +
      c.cfgMinFrame.toNat * 2 ^ 192 + c.cfgMaxFrame.toNat * 2 ^ 256 + c.cfgIfgBits.toNat * 2 ^ 320 +
      c.cfgPauseUnit.toNat * 2 ^ 384 + c.cfgQueueLimit.toNat * 2 ^ 448 := by
  unfold CfgRegs.toRecord
  simp only [append_toNat]
  omega

theorem recordReg_toNat (r : CfgRecord) (i : Nat) : (recordReg r i).toNat = r.toNat / 2 ^ (64 * i) % 2 ^ 64 := by
  rw [recordReg, BitVec.extractLsb'_toNat, Nat.shiftRight_eq_div_pow]

/-- Each register reads back from the record (R88). -/
theorem CfgRegs.ofRecord_toRecord (c : CfgRegs) : CfgRegs.ofRecord c.toRecord = c := by
  obtain ⟨r0, r1, r2, r3, r4, r5, r6, r7⟩ := c
  have := r0.isLt; have := r1.isLt; have := r2.isLt; have := r3.isLt
  have := r4.isLt; have := r5.isLt; have := r6.isLt; have := r7.isLt
  simp only [CfgRegs.ofRecord, CfgRegs.mk.injEq]
  refine ⟨?_, ?_, ?_, ?_, ?_, ?_, ?_, ?_⟩ <;> apply BitVec.eq_of_toNat_eq <;>
    rw [recordReg_toNat, CfgRegs.toRecord_toNat] <;> simp only <;> omega

/-- The low `n` bits of a register as a number. -/
theorem extractLow_toNat (r : Reg) (n : Nat) : (r.extractLsb' 0 n).toNat = r.toNat % 2 ^ n := by
  rw [BitVec.extractLsb'_toNat, Nat.shiftRight_zero]

/-- A bit of a register in numbers. -/
theorem reg_getLsbD_eq_decide (r : Reg) (i : Nat) : r.getLsbD i = decide (r.toNat / 2 ^ i % 2 = 1) := by
  rw [BitVec.getLsbD, Nat.testBit_eq_decide_div_mod_eq]

/-- Some bit from `k` up is set exactly when the register reaches `2 ^ k`. -/
theorem extractHigh_ne_zero_iff (r : Reg) {k n : Nat} (h : k + n = 64) : r.extractLsb' k n ≠ 0 ↔ 2 ^ k ≤ r.toNat := by
  have hlt : r.toNat / 2 ^ k < 2 ^ n := by
    rw [Nat.div_lt_iff_lt_mul (by positivity), ← Nat.pow_add, Nat.add_comm, h]
    exact r.isLt
  rw [ne_eq, ← BitVec.toNat_inj, BitVec.extractLsb'_toNat, Nat.shiftRight_eq_div_pow, Nat.mod_eq_of_lt hlt,
    show (0 : BitVec n).toNat = 0 from Nat.zero_mod _, Nat.div_eq_zero_iff_lt (by positivity), not_lt]

theorem CfgRegs.addrAuto_eq_decide (c : CfgRegs) : c.addrAuto = decide (c.cfgMode.toNat % 2 = 1) := by
  rw [CfgRegs.addrAuto, reg_getLsbD_eq_decide, pow_zero, Nat.div_one]

theorem CfgRegs.queueMode_external_iff (c : CfgRegs) : c.queueMode = .external ↔ c.cfgMode.toNat / 4 % 2 = 1 := by
  unfold CfgRegs.queueMode
  rw [reg_getLsbD_eq_decide]
  split <;> simp_all

theorem CfgRegs.overflowPolicy_reject_iff (c : CfgRegs) :
    c.overflowPolicy = .reject ↔ c.cfgMode.toNat / 8 % 2 = 1 := by
  unfold CfgRegs.overflowPolicy
  rw [reg_getLsbD_eq_decide]
  split <;> simp_all

/-- A reserved bit is one above the fields of its register (R37). -/
theorem CfgRegs.reservedBitSet_iff (c : CfgRegs) :
    c.reservedBitSet = true ↔
      2 ^ 48 ≤ c.cfgAddr.toNat ∨ 2 ^ 4 ≤ c.cfgMode.toNat ∨ 2 ^ 16 ≤ c.cfgMinFrame.toNat ∨
        2 ^ 16 ≤ c.cfgMaxFrame.toNat ∨ 2 ^ 32 ≤ c.cfgIfgBits.toNat ∨ 2 ^ 32 ≤ c.cfgPauseUnit.toNat ∨
        2 ^ 32 ≤ c.cfgQueueLimit.toNat := by
  simp only [CfgRegs.reservedBitSet, Bool.or_eq_true, decide_eq_true_eq, or_assoc]
  rw [extractHigh_ne_zero_iff _ (by rfl), extractHigh_ne_zero_iff _ (by rfl), extractHigh_ne_zero_iff _ (by rfl),
    extractHigh_ne_zero_iff _ (by rfl), extractHigh_ne_zero_iff _ (by rfl), extractHigh_ne_zero_iff _ (by rfl),
    extractHigh_ne_zero_iff _ (by rfl)]

/-- Settles O6: registers in the record, fields in the registers, and the bits no field lists. -/
theorem configFieldsStandAtTheirBits : Obligations.ConfigFieldsStandAtTheirBits := fun c =>
  ⟨c.ofRecord_toRecord, c.toRecord_toNat, extractLow_toNat .., c.addrAuto_eq_decide, reg_getLsbD_eq_decide ..,
    c.queueMode_external_iff, c.overflowPolicy_reject_iff, rfl, extractLow_toNat .., extractLow_toNat ..,
    extractLow_toNat .., extractLow_toNat .., extractLow_toNat .., c.reservedBitSet_iff⟩

end Sys2Proof.Machine
end

section
/-! ## The offered event (R66, R67, R211) -/

namespace Sys2Proof.Machine

/-- An arrival strictly earlier than every timer that can fire is the candidate taken, and no tie is drawn. -/
theorem fetch_headFirst {s : State} {a : Arrival} {rest : List Arrival} (h : HeadFirst s a rest) :
    fetch s = take s .arrival := by
  rw [fetch, choose_single (enabled_headFirst h)]

/-- Taking an arrival whose word decodes leaves its event to be handled with what travels beside the word. -/
theorem take_arrival_of_decode_ok {s : State} {a : Arrival} {rest : List Arrival} {i : Instr}
    (hin : s.inbox = a :: rest) (hd : decode a.word = .ok i) :
    take s .arrival = (.event i, handling s a rest) := by
  simp only [take, hin, hd, handling]

/-- Settles O8. -/
theorem stepHandlesTheOfferedEvent : Obligations.StepHandlesTheOfferedEvent := by
  intro s a rest i h hd
  have hin : s.inbox = a :: rest := h.1
  rw [step, fetch_headFirst h, take_arrival_of_decode_ok hin hd]

end Sys2Proof.Machine
end

section
/-! ## Fields and words in numbers (R80, R81, R90) -/

namespace Sys2Proof

theorem fieldEv_toNat (w : EventWord) : (fieldEv w).toNat = w.toNat % 16 := by
  rw [fieldEv, BitVec.extractLsb'_toNat, Nat.shiftRight_zero]

theorem fieldK_eq_three_iff (w : EventWord) : fieldK w = 3 ↔ w.toNat / 32 % 4 = 3 := by
  rw [← BitVec.toNat_inj, fieldK, BitVec.extractLsb'_toNat, Nat.shiftRight_eq_div_pow]
  rfl

theorem fieldRsv_eq_zero_iff (w : EventWord) : fieldRsv w = 0 ↔ w.toNat / 512 % 128 = 0 := by
  rw [← BitVec.toNat_inj, fieldRsv, BitVec.extractLsb'_toNat, Nat.shiftRight_eq_div_pow]
  rfl

/-- A word whose operand fields are zero: its code, A, and RSV. -/
theorem packWord_zero_toNat (rsv : BitVec 7) (a : Bool) (ev : BitVec 4) :
    (packWord 0 0 0 0 0 rsv false false 0 a ev).toNat = ev.toNat + a.toNat * 2 ^ 4 + rsv.toNat * 2 ^ 9 := by
  simp only [packWord_toNat, BitVec.ofNat_eq_ofNat, BitVec.toNat_ofNat, Bool.toNat_false]
  omega

/-- A number that fits a 16-bit field is kept by it (R84). -/
theorem fitsHalf_toNat_ofNat {n : Nat} (h : fitsHalf n = true) : (BitVec.ofNat 16 n).toNat = n :=
  (BitVec.toNat_ofNat n 16).trans (Nat.mod_eq_of_lt (of_decide_eq_true h))

theorem SubmitOperands.wellFormed_iff (o : SubmitOperands) :
    o.wellFormed = true ↔ fitsHalf o.len = true ∧ fitsHalf o.pauseUnits = true := by
  rw [SubmitOperands.wellFormed, Bool.and_eq_true]

theorem RxOperands.wellFormed_iff (o : RxOperands) :
    o.wellFormed = true ↔ fitsHalf o.len = true ∧ fitsHalf o.wireLen = true ∧ fitsHalf o.pauseUnits = true := by
  rw [RxOperands.wellFormed, Bool.and_eq_true, Bool.and_eq_true, and_assoc]

theorem encode_submitInstr (k : Kind) (o : SubmitOperands) : encode (submitInstr k o) = encodeSubmit k o := by
  cases k <;> rfl

theorem encode_rxInstr (k : Kind) (o : RxOperands) : encode (rxInstr k o) = encodeRx k o := by
  cases k <;> rfl

theorem encodeSubmit_toNat {o : SubmitOperands} (k : Kind) (h : o.wellFormed = true) :
    (encodeSubmit k o).toNat =
      1 + k.code.toNat * 2 ^ 5 + o.srcValid.toNat * 2 ^ 8 + o.len * 2 ^ 16 + o.pauseUnits * 2 ^ 48 +
        o.dst.toNat * 2 ^ 64 + o.src.toNat * 2 ^ 112 := by
  obtain ⟨hl, hp⟩ := o.wellFormed_iff.1 h
  rw [encodeSubmit, packWord_toNat, fitsHalf_toNat_ofNat hl, fitsHalf_toNat_ofNat hp]
  simp only [BitVec.ofNat_eq_ofNat, BitVec.toNat_ofNat, Bool.toNat_false]
  omega

theorem encodeRx_toNat {o : RxOperands} (k : Kind) (h : o.wellFormed = true) :
    (encodeRx k o).toNat =
      2 + k.code.toNat * 2 ^ 5 + o.err.toNat * 2 ^ 7 + o.srcValid.toNat * 2 ^ 8 + o.len * 2 ^ 16 + o.wireLen * 2 ^ 32 +
        o.pauseUnits * 2 ^ 48 + o.dst.toNat * 2 ^ 64 + o.src.toNat * 2 ^ 112 := by
  obtain ⟨hl, hw, hp⟩ := o.wellFormed_iff.1 h
  rw [encodeRx, packWord_toNat, fitsHalf_toNat_ofNat hl, fitsHalf_toNat_ofNat hw, fitsHalf_toNat_ofNat hp]
  simp only [BitVec.ofNat_eq_ofNat, BitVec.toNat_ofNat, Bool.toNat_false]
  omega

theorem encodeBare_toNat (a : Bool) (ev : BitVec 4) : (encodeBare a ev).toNat = ev.toNat + a.toNat * 2 ^ 4 :=
  packWord_zero_toNat 0 a ev

/-- Settles O2: the words of SUBMIT and RX as sums of their fields, kind by kind, and the bare words. -/
theorem encodedFieldsStandAtTheirBits : Obligations.EncodedFieldsStandAtTheirBits := by
  refine ⟨fun k o h => ?_, fun k o h => ?_, fun d => encodeBare_toNat d 6, by decide⟩
  · rw [encode_submitInstr, encodeSubmit_toNat k h]
    cases k <;> rfl
  · rw [encode_rxInstr, encodeRx_toNat k h]
    cases k <;> rfl

namespace Machine

/-- The word of a frame record, by the frame's fields (R90). -/
theorem frameWord_toNat (f : Frame) (rsv : BitVec 7) (ev : BitVec 4) :
    (frameWord f rsv ev).toNat =
      ev.toNat + rsv.toNat * 2 ^ 9 +
        (f.kind.code.toNat * 2 ^ 5 + f.err.toNat * 2 ^ 7 + f.srcValid.toNat * 2 ^ 8 + f.len.toNat * 2 ^ 16 +
          f.wireLen.toNat * 2 ^ 32 + f.pauseUnits.toNat * 2 ^ 48 + f.dst.toNat * 2 ^ 64 + f.src.toNat * 2 ^ 112) := by
  rw [frameWord, packWord_toNat, Bool.toNat_false]
  omega

/-- Settles O7: a record that names a frame is its code and the frame's fields, one that names none its code alone. -/
theorem outputWordsCarryTheirFields : Obligations.OutputWordsCarryTheirFields := fun f =>
  ⟨frameWord_toNat f 0 1, frameWord_toNat f 0 2, packWord_zero_toNat 0 false 3, packWord_zero_toNat 0 false 4,
    frameWord_toNat f 0 6, fun code => frameWord_toNat f code.code 5,
    fun code _ => packWord_zero_toNat code.code false 5, fun code _ => packWord_zero_toNat code.code false 5, rfl⟩

end Machine

end Sys2Proof
end

section
/-! ## The decoder, case by case (R80, R85, R86, R87) -/

namespace Sys2Proof

/-- The two bits of a K field are the code of a kind, or 11 (R80). -/
theorem eq_code_or_eq_three (b : BitVec 2) : (∃ k : Kind, b = k.code) ∨ b = 3 := by
  have hb : b = 0 ∨ b = 1 ∨ b = 2 ∨ b = 3 := by
    revert b
    decide
  obtain h | h | h | h := hb
  · exact .inl ⟨.data, h⟩
  · exact .inl ⟨.pause, h⟩
  · exact .inl ⟨.filler, h⟩
  · exact .inr h

theorem Kind.code_ne_three (k : Kind) : k.code ≠ 3 := by cases k <;> decide

theorem decodeSubmit_of_code {w : EventWord} {k : Kind} (h : fieldK w = k.code) :
    decodeSubmit w = .ok (submitInstr k (submitOperandsOf w)) := by
  rw [decodeSubmit, h]
  cases k <;> rfl

theorem decodeRx_of_code {w : EventWord} {k : Kind} (h : fieldK w = k.code) :
    decodeRx w = .ok (rxInstr k (rxOperandsOf w)) := by
  rw [decodeRx, h]
  cases k <;> rfl

theorem decodeSubmit_of_three {w : EventWord} (h : fieldK w = 3) : decodeSubmit w = .error .noSuchKind := by
  rw [decodeSubmit, h]
  rfl

theorem decodeRx_of_three {w : EventWord} (h : fieldK w = 3) : decodeRx w = .error .noSuchKind := by
  rw [decodeRx, h]
  rfl

theorem decodeSubmit_error_iff (w : EventWord) : (∃ e, decodeSubmit w = .error e) ↔ fieldK w = 3 := by
  obtain ⟨k, hk⟩ | hk := eq_code_or_eq_three (fieldK w)
  · rw [decodeSubmit_of_code hk, hk]
    exact iff_of_false nofun k.code_ne_three
  · exact iff_of_true ⟨_, decodeSubmit_of_three hk⟩ hk

theorem decodeRx_error_iff (w : EventWord) : (∃ e, decodeRx w = .error e) ↔ fieldK w = 3 := by
  obtain ⟨k, hk⟩ | hk := eq_code_or_eq_three (fieldK w)
  · rw [decodeRx_of_code hk, hk]
    exact iff_of_false nofun k.code_ne_three
  · exact iff_of_true ⟨_, decodeRx_of_three hk⟩ hk

theorem decode_of_rsv_ne {w : EventWord} (h : fieldRsv w ≠ 0) : decode w = .error .reservedBits := if_pos h

theorem decode_of_submit {w : EventWord} (hr : fieldRsv w = 0) (he : fieldEv w = 1) : decode w = decodeSubmit w := by
  simp [decode, hr, he]

theorem decode_of_rx {w : EventWord} (hr : fieldRsv w = 0) (he : fieldEv w = 2) : decode w = decodeRx w := by
  simp [decode, hr, he]

/-- With RSV zero, a word is invalid by its event code or by its kind (R85 (a), (c)). -/
theorem decode_error_iff_of_rsv {w : EventWord} (hr : fieldRsv w = 0) :
    (∃ e, decode w = .error e) ↔
      ((fieldEv w).toNat = 0 ∨ 10 ≤ (fieldEv w).toNat) ∨
        (((fieldEv w).toNat = 1 ∨ (fieldEv w).toNat = 2) ∧ fieldK w = 3) := by
  rw [decode, if_neg (not_not.2 hr)]
  split
  case h_1 he => simp [decodeSubmit_error_iff, he]
  case h_2 he => simp [decodeRx_error_iff, he]
  case h_10 =>
    simp only [imp_false] at *
    exact ⟨fun _ => by omega, fun _ => ⟨_, rfl⟩⟩
  all_goals exact ⟨nofun, fun _ => by omega⟩

/-- The invalid words are those of R85 (a), (b) and (c). -/
theorem decode_error_iff (w : EventWord) :
    (∃ e, decode w = .error e) ↔
      ((w.toNat % 16 = 0 ∨ 10 ≤ w.toNat % 16) ∨ w.toNat / 512 % 128 ≠ 0 ∨
        ((w.toNat % 16 = 1 ∨ w.toNat % 16 = 2) ∧ w.toNat / 32 % 4 = 3)) := by
  by_cases hr : fieldRsv w = 0
  · rw [decode_error_iff_of_rsv hr, fieldEv_toNat, fieldK_eq_three_iff]
    have := (fieldRsv_eq_zero_iff w).1 hr
    omega
  · exact ⟨fun _ => .inr (.inl (hr ∘ (fieldRsv_eq_zero_iff w).2)), fun _ => ⟨_, decode_of_rsv_ne hr⟩⟩

theorem submitOperandsOf_encodeSubmit {o : SubmitOperands} (k : Kind) (h : o.wellFormed = true) :
    submitOperandsOf (encodeSubmit k o) = o := by
  obtain ⟨hl, hp⟩ := o.wellFormed_iff.1 h
  simp [submitOperandsOf, encodeSubmit, -BitVec.toNat_ofNat, fitsHalf_toNat_ofNat hl, fitsHalf_toNat_ofNat hp]

theorem rxOperandsOf_encodeRx {o : RxOperands} (k : Kind) (h : o.wellFormed = true) :
    rxOperandsOf (encodeRx k o) = o := by
  obtain ⟨hl, hw, hp⟩ := o.wellFormed_iff.1 h
  simp [rxOperandsOf, encodeRx, -BitVec.toNat_ofNat, fitsHalf_toNat_ofNat hl, fitsHalf_toNat_ofNat hw,
    fitsHalf_toNat_ofNat hp]

theorem decode_encodeSubmit {o : SubmitOperands} (k : Kind) (h : o.wellFormed = true) :
    decode (encodeSubmit k o) = .ok (submitInstr k o) := by
  have hr : fieldRsv (encodeSubmit k o) = 0 := fieldRsv_packWord ..
  have he : fieldEv (encodeSubmit k o) = 1 := fieldEv_packWord ..
  have hk : fieldK (encodeSubmit k o) = k.code := fieldK_packWord ..
  rw [decode_of_submit hr he, decodeSubmit_of_code hk, submitOperandsOf_encodeSubmit k h]

theorem decode_encodeRx {o : RxOperands} (k : Kind) (h : o.wellFormed = true) :
    decode (encodeRx k o) = .ok (rxInstr k o) := by
  have hr : fieldRsv (encodeRx k o) = 0 := fieldRsv_packWord ..
  have he : fieldEv (encodeRx k o) = 2 := fieldEv_packWord ..
  have hk : fieldK (encodeRx k o) = k.code := fieldK_packWord ..
  rw [decode_of_rx hr he, decodeRx_of_code hk, rxOperandsOf_encodeRx k h]

/-- Settles O1, form by form: the six frame events by their kind, the others by their code. -/
theorem decodeInvertsEncode : Obligations.DecodeInvertsEncode := by
  intro i h
  cases i with
  | submitData o => exact decode_encodeSubmit .data h
  | submitPause o => exact decode_encodeSubmit .pause h
  | submitFiller o => exact decode_encodeSubmit .filler h
  | rxData o => exact decode_encodeRx .data h
  | rxPause o => exact decode_encodeRx .pause h
  | rxFiller o => exact decode_encodeRx .filler h
  | setAdmin d => cases d <;> decide
  | txEnd | ifgEnd | pauseEnd | shutdown | setup | reset => decide

/-- Settles O3: the decoder evaluated on the words of the spec. -/
theorem sampleWordsDecode : Obligations.SampleWordsDecode := by
  unfold Obligations.SampleWordsDecode
  decide

theorem decodeSubmit_congr {w v : EventWord} (hK : fieldK w = fieldK v) (hS : fieldS w = fieldS v)
    (hL : fieldL w = fieldL v) (hP : fieldP w = fieldP v) (hD : fieldDst w = fieldDst v)
    (hSrc : fieldSrc w = fieldSrc v) : decodeSubmit w = decodeSubmit v := by
  simp only [decodeSubmit, submitOperandsOf, hK, hS, hL, hP, hD, hSrc]

/-- Two words that are no RX decode alike when they agree on EV, on RSV, and on what a SUBMIT or a SET_ADMIN reads
(R82, R86). -/
theorem decode_congr {w v : EventWord} (hev : fieldEv w = fieldEv v) (hrsv : fieldRsv w = fieldRsv v)
    (hsubmit : fieldEv w = 1 → decodeSubmit w = decodeSubmit v) (hrx : fieldEv w ≠ 2)
    (hadmin : fieldEv w = 6 → fieldA w = fieldA v) : decode w = decode v := by
  have code {n : Nat} (h : (fieldEv v).toNat = n) : fieldEv w = BitVec.ofNat 4 n := by
    rw [hev, ← h, BitVec.ofNat_toNat, BitVec.setWidth_eq]
  unfold decode
  rw [hrsv, hev]
  split
  · rfl
  · split
    case h_1 he => exact hsubmit (code he)
    case h_2 he => exact absurd (code he) hrx
    case h_6 he => rw [hadmin (code he)]
    all_goals rfl

namespace Machine

/-- Taking an arrival whose word spells no event hands over why, and consumes it (R85). -/
theorem take_arrival_of_decode_error {s : State} {a : Arrival} {rest : List Arrival} {e : Invalid}
    (hin : s.inbox = a :: rest) (hd : decode a.word = .error e) :
    take s .arrival = (.invalid e, handling s a rest) := by
  simp only [take, hin, hd, handling]

/-- Settles O4: the iff of the decoder, and the step on an offered word that spells no event. -/
theorem invalidWordsAreRefused : Obligations.InvalidWordsAreRefused := by
  refine ⟨decode_error_iff, fun s a rest e h hd => ?_⟩
  have hin : s.inbox = a :: rest := h.1
  rw [step, fetch_headFirst h, take_arrival_of_decode_error hin hd]
  rfl

/-- L of an RX is carried and read by no rule (R82): the delivered frame's length comes from W (R157). -/
theorem exec_rxInstr_len (k : Kind) (o : RxOperands) (n : Nat) (s : State) :
    exec (rxInstr k { o with len := n }) s = exec (rxInstr k o) s := by
  cases k <;> rfl

/-- Two words spell the same rejection, or two instructions with the same effect in every state (R86). -/
def SameEffect (w v : EventWord) : Prop :=
  (∃ e, decode w = .error e ∧ decode v = .error e) ∨
    ∃ i j, decode w = .ok i ∧ decode v = .ok j ∧ ∀ s, exec i s = exec j s

theorem SameEffect.of_decode_eq {w v : EventWord} (h : decode w = decode v) : SameEffect w v := by
  cases hw : decode w with
  | error e => exact .inl ⟨e, hw, h ▸ hw⟩
  | ok i => exact .inr ⟨i, i, hw, h ▸ hw, fun _ => rfl⟩

/-- Two RX words whose frames differ at most in L. -/
theorem SameEffect.of_rx {w v : EventWord} {n : Nat} (hw : decode w = decodeRx w) (hv : decode v = decodeRx v)
    (hk : fieldK w = fieldK v) (ho : rxOperandsOf v = { rxOperandsOf w with len := n }) : SameEffect w v := by
  obtain ⟨k, h⟩ | h := eq_code_or_eq_three (fieldK w)
  · exact .inr ⟨_, _, hw.trans (decodeRx_of_code h), hv.trans (decodeRx_of_code (hk ▸ h)),
      fun s => ho ▸ (exec_rxInstr_len k _ n s).symm⟩
  · exact .inl ⟨_, hw.trans (decodeRx_of_three h), hv.trans (decodeRx_of_three (hk ▸ h))⟩

/-- Settles O5: two RX words may differ in the L they carry, which has no effect; words of every other code decode
alike. -/
theorem unreadFieldsChangeNothing : Obligations.UnreadFieldsChangeNothing := by
  intro w v hev hrsv hsubmit hrx hadmin
  by_cases hr : fieldRsv w = 0
  · by_cases he : fieldEv w = 2
    · obtain ⟨hK, hE, hS, hW, hP, hD, hSrc⟩ := hrx he
      exact SameEffect.of_rx (n := (fieldL v).toNat) (decode_of_rx hr he) (decode_of_rx (hrsv ▸ hr) (hev ▸ he)) hK
        (by simp only [rxOperandsOf, hE, hS, hW, hP, hD, hSrc])
    · have hs : fieldEv w = 1 → decodeSubmit w = decodeSubmit v := fun h1 =>
        have ⟨hK, hS, hL, hP, hD, hSrc⟩ := hsubmit h1
        decodeSubmit_congr hK hS hL hP hD hSrc
      exact SameEffect.of_decode_eq (decode_congr hev hrsv hs he hadmin)
  · exact SameEffect.of_decode_eq ((decode_of_rsv_ne hr).trans (decode_of_rsv_ne (hrsv ▸ hr)).symm)

/-- Settles O30: a SUBMIT of a FILLER frame is a refused event in every state (R204). -/
theorem submitOfFillerIsRefused : Obligations.SubmitOfFillerIsRefused := fun o _ =>
  exec_refused (i := .submitFiller o) trivial

end Machine

end Sys2Proof
end

section
/-!
## Frames on the wire (R113, R123, R125)

A frame goes on the wire only from the slot, and the step that sends it leaves it there: what the invariant says of the
state after the step is said of the frame sent.
-/

namespace Sys2Proof.Machine

/-! ### The wire frame -/

/-- A frame already of the minimum length, with its source, goes out as it is but for its wire length and error flag. -/
theorem wireFrame_eq {s : State} {f : Frame} (hmin : s.cfg.minFrameBytes ≤ f.len.toNat) (hsrc : f.srcValid = true) :
    wireFrame s f = { f with wireLen := BitVec.ofNat 16 (f.len.toNat + s.overheadBytes), err := false } := by
  simp [wireFrame, Nat.not_lt.2 hmin, hsrc]

/-- Under a legal configuration the overhead fits the wire length of every frame the block may hold (R182, R125). -/
theorem wireLen_no_overflow {s : State} {f : Frame} (hf : FrameOk s.cfg f) (hl : Legal s.overheadBytes s.cfg) :
    (BitVec.ofNat 16 (f.len.toNat + s.overheadBytes)).toNat = f.len.toNat + s.overheadBytes := by
  obtain ⟨-, -, -, hfits, -, -⟩ := validate_none hl
  have hmax := hf.maxLen
  rw [BitVec.toNat_ofNat]
  omega

/-! ### The step that sends -/

theorem Launches.phase {s t : State} (h : Launches s t) : t.phase = s.phase := by
  obtain ⟨f, v, -, hp, -, -, -, -, -, rfl⟩ := h
  exact hp

theorem Launches.connected {s t : State} (h : Launches s t) : s.connected = true := by
  obtain ⟨f, v, -, -, hc, -, -, hv, -, -⟩ := h
  exact hc ▸ hv

/-- The frame a launch sends is the duplicate of the one it leaves in the slot. -/
theorem Launches.tx_eq {s t : State} (h : Launches s t) {new : List OutRecord} {time : Time} {d : Frame}
    (hout : t.out = s.out ++ new) (hd : ⟨time, .tx d⟩ ∈ new) : ∃ f, t.slot = some f ∧ d = wireFrame t f := by
  obtain ⟨f, v, ⟨a, ha, hat⟩, -, -, -, -, -, hf, rfl⟩ := h
  have hsent : (started f v).out = s.out ++ (a ++ [⟨v.now, .tx (wireFrame v f)⟩]) := by simp [started, ha]
  obtain rfl := List.append_cancel_left (hout.symm.trans hsent)
  refine ⟨f, hf, ?_⟩
  rcases List.mem_append.1 hd with hd | hd
  · exact absurd (hat _ hd) nofun
  · rw [List.mem_singleton] at hd
    cases hd
    rfl

/-- A step emits no OUT_TX, or begins in RUN and launches a frame. -/
theorem StepOutcome.silent_or_launches {s t : State} (h : StepOutcome s t) :
    Silent s t ∨ (Launches s t ∧ s.phase = .run) := by
  cases h with
  | waits => exact .inl (.of_out_eq rfl)
  | refused hand => exact .inl (.of_out_eq hand.out)
  | halted hand => exact .inl ((Silent.of_out_eq hand.out).trans (halt_silent ..))
  | @accepted u _ i hand acc body =>
    have hu : Silent s u.arrive := .of_out_eq hand.out
    rcases bodyOf_silent_or_launches body with k | ⟨k, h1, h2⟩
    · exact .inl (hu.trans k)
    · exact .inr ⟨k.after hu hand.phase hand.connected hand.txState,
        hand.phase.symm.trans (phase_of_accepted acc h1 h2)⟩

theorem InHand.overheadBytes {s u : State} (h : InHand s u) : u.overheadBytes = s.overheadBytes := by rw [h.eq]

/-- No step writes the implementation constant (R38). -/
theorem StepOutcome.overheadBytes {s t : State} (h : StepOutcome s t) : t.overheadBytes = s.overheadBytes := by
  cases h with
  | waits => rfl
  | refused hand | halted hand => exact hand.overheadBytes
  | accepted hand _ body => exact (bodyOf_extends body).overheadBytes.trans hand.overheadBytes

/-- Settles O54: the invariant of the state after the step says of the staged frame what its duplicate on the wire
carries. -/
theorem wireFramesAreWithinLimits : Obligations.WireFramesAreWithinLimits := by
  intro s t new time d hinv hst hout hd
  rcases (step_outcome hst).silent_or_launches with k | ⟨hlaunch, hrun⟩
  · exact absurd (k.isTx_false hout _ hd) nofun
  · have htrun : t.phase = .run := hlaunch.phase.trans hrun
    obtain ⟨hcfg, -, -, -⟩ := setupValuesAreReadOnly s t hst (by simp [hrun]) (by simp [htrun])
    have ht : RunInv t := stepKeepsTheInvariant s t hinv hst htrun
    obtain ⟨f, hslot, rfl⟩ := hlaunch.tx_eq hout hd
    have hf : FrameOk t.cfg f := ht.frames f (by simp [heldFrames, hslot])
    rw [wireFrame_eq hf.minLen hf.srcValid, ← hcfg, ← (step_outcome hst).overheadBytes]
    exact ⟨hf.minLen, hf.maxLen, hf.srcValid, rfl, hf.kind, wireLen_no_overflow hf ht.legal, hlaunch.connected⟩

end Sys2Proof.Machine
end

section
/-!
## Frames wait in order (R63, R64, R112)

The frames held are the staged one and the queue behind it; every rule of RUN takes from the front of that list or adds
one frame at its back.
-/

namespace Sys2Proof.Machine

/-- `t` holds what `s` holds less some frames at the front. -/
def TakesFromFront (s t : State) : Prop := ∃ k, heldFrames t = (heldFrames s).drop k

/-- `t` holds what `s` holds and at most one frame more, at the back. -/
def AddsAtBack (s t : State) : Prop := ∃ new, heldFrames t = heldFrames s ++ new ∧ new.length ≤ 1

/-- Strict FIFO for one event (R112). -/
def InOrder (s t : State) : Prop := TakesFromFront s t ∨ AddsAtBack s t

theorem TakesFromFront.of_eq {s t : State} (h : heldFrames t = heldFrames s) : TakesFromFront s t := ⟨0, h⟩

theorem InOrder.of_eq {s t : State} (h : heldFrames t = heldFrames s) : InOrder s t := .inl (.of_eq h)

theorem InOrder.congr {s s' t : State} (h : InOrder s t) (hs : heldFrames s = heldFrames s') : InOrder s' t := by
  unfold InOrder TakesFromFront AddsAtBack at *
  rwa [← hs]

theorem heldFrames_congr {s t : State} (h1 : t.slot = s.slot) (h2 : t.queue = s.queue) : heldFrames t = heldFrames s := by
  rw [heldFrames, h1, h2, heldFrames]

/-! ### Rule by rule -/

/-- Staging the head of the queue moves no frame past another (R64, R110). -/
theorem refill_heldFrames (s : State) : heldFrames (refill s) = heldFrames s := by
  rcases refill_cases s with ⟨e, -⟩ | ⟨f, rest, hs, -, hq, e⟩ | ⟨-, -, -, e⟩ <;> rw [e]
  · simp [heldFrames, hs, hq]
  · rfl

/-- A frame dropped at the gate was never held (R102). -/
theorem dropAtGate_heldFrames (s : State) : heldFrames (dropAtGate s) = heldFrames s := by
  unfold dropAtGate
  split
  · rw [dropUpper_eq]; rfl
  · rw [refill_heldFrames, dropUpper_eq]; rfl

/-- The closed gate drops the staged frame, in INTERNAL mode the queued ones after it (R121). -/
theorem drained_takesFromFront {s : State} {f : Frame} (hs : s.slot = some f) : TakesFromFront s (drained s) := by
  unfold drained
  split
  · exact ⟨s.queue.length + 1, by simp [heldFrames, hs]⟩
  · exact ⟨1, by simp [heldFrames, hs]⟩

theorem beginSendFrames_takesFromFront {s t : State} (h : beginSendFrames s = .ok t) : TakesFromFront s t := by
  rcases beginSendFrames_cases s with ⟨-, e⟩ | ⟨-, -, e⟩ | ⟨f, -, -, -, e⟩ | ⟨f, -, hs, -, e⟩ <;> rw [e] at h <;> cases h
  · exact .of_eq rfl
  · exact .of_eq rfl
  · exact .of_eq rfl
  · exact drained_takesFromFront hs

/-- With the gate open nothing is dropped: the frame started stays staged (R123). -/
theorem beginSendFrames_heldFrames {s t : State} (hg : gateClosed s = false) (h : beginSendFrames s = .ok t) :
    heldFrames t = heldFrames s := by
  rcases beginSendFrames_cases s with ⟨-, e⟩ | ⟨-, -, e⟩ | ⟨f, -, -, -, e⟩ | ⟨f, -, -, hg', e⟩ <;> rw [e] at h
  · cases h; rfl
  · cases h; rfl
  · cases h; rfl
  · simp [hg] at hg'

/-- Admission puts the frame last: frames wait only behind a staged one, so an empty slot has none behind it. -/
theorem admit_addsAtBack {s t : State} {g : Frame} (hst : Staged s) (h : admission g s = .ok t) : AddsAtBack s t := by
  rcases admit_ok_cases h with ⟨-, -, rfl⟩ | ⟨-, -, -, rfl⟩ | ⟨-, -, hs, hq, rfl⟩ | ⟨f, rest, -, -, hs, hq, -⟩ |
    ⟨-, hs, rfl⟩
  · exact ⟨[], by simp [heldFrames]⟩
  · exact ⟨[g], by simp [heldFrames]⟩
  · exact ⟨[g], by simp [heldFrames, hs, hq]⟩
  · exact absurd ((hst hs).symm.trans hq) nofun
  · exact ⟨[g], by simp [heldFrames, hs, hst hs]⟩

/-- Behind the open gate the start of a frame leaves the frames held as admission left them. -/
theorem startIfIdle_heldFrames {s t : State} (hg : gateClosed s = false) (h : startIfIdle s = .ok t) :
    heldFrames t = heldFrames s := by
  by_cases hi : s.txState = .idle
  · exact beginSendFrames_heldFrames hg (startIfIdle_idle hi ▸ h)
  · rw [startIfIdle_busy hi] at h
    cases h
    rfl

theorem SameLaunch.gateClosed {s t : State} (h : SameLaunch s t) : gateClosed t = gateClosed s := by
  rw [Machine.gateClosed, h.connected, h.disabled, Machine.gateClosed]

theorem submitBody_inOrder {s t : State} {f : Frame} (hst : Staged s) (h : submitBody f s = .ok t) : InOrder s t := by
  obtain ⟨-, -, ⟨-, rfl⟩ | ⟨hg, u, ha, hb⟩⟩ := submitBody_ok_cases h
  · exact .of_eq (dropAtGate_heldFrames _)
  · have hu : AddsAtBack s u := admit_addsAtBack (s := s.addTo .fromUpper 1) hst ha
    have ht : heldFrames t = heldFrames u := startIfIdle_heldFrames ((admit_sameLaunch ha).gateClosed.trans hg) hb
    rw [AddsAtBack, ← ht] at hu
    exact .inr hu

/-- RX writes neither the slot nor the queue. -/
theorem rxDataBody_heldFrames (f : Frame) (s : State) : heldFrames (rxDataBody f s) = heldFrames s := by
  rcases rxDataBody_cases f s with ⟨-, e⟩ | ⟨-, -, -, e⟩ | ⟨-, -, -, e⟩ | ⟨-, -, -, e⟩ | ⟨-, -, -, e⟩ <;> rw [e] <;> rfl

theorem processPauseCommand_heldFrames (u : Half) (s : State) :
    heldFrames (processPauseCommand u s) = heldFrames s := by
  rw [processPauseCommand_eq]
  split
  · split <;> rfl
  all_goals rfl

theorem rxPauseBody_heldFrames (f : Frame) (s : State) : heldFrames (rxPauseBody f s) = heldFrames s := by
  rcases rxPauseBody_cases f s with ⟨-, e⟩ | ⟨-, -, e⟩ | ⟨-, -, -, e⟩ <;> rw [e]
  · rfl
  · exact processPauseCommand_heldFrames ..

theorem disarm_heldFrames (s : State) (T : Timer) : heldFrames (s.disarm T) = heldFrames s :=
  heldFrames_congr (s.disarm_slot T) (s.disarm_queue T)

theorem pauseOrGap_heldFrames (s : State) : heldFrames (pauseOrGap s) = heldFrames s := by
  rw [pauseOrGap_eq]
  split <;> rfl

/-- The end of a transmission takes the frame sent, and stages the next (R127). -/
theorem onTransmissionEnd_takesFromFront {s : State} {f : Frame} (hs : s.slot = some f) :
    TakesFromFront s (onTransmissionEnd f s) := by
  rw [TakesFromFront, onTransmissionEnd, pauseOrGap_heldFrames, refill_heldFrames, countSent_eq]
  exact ⟨1, by simp [heldFrames, hs]⟩

theorem waitEnd_takesFromFront {s t : State} {T : Timer} (h : beginSendFrames (s.disarm T) = .ok t) :
    TakesFromFront s t := by
  rw [TakesFromFront, ← disarm_heldFrames s T]
  exact beginSendFrames_takesFromFront h

theorem setAdminBody_takesFromFront {d : Bool} {s t : State} (h : setAdminBody d s = .ok t) : TakesFromFront s t := by
  rcases setAdminBody_cases d s with ⟨-, e⟩ | ⟨-, -, -, e⟩ <;> rw [e] at h
  · cases h
    exact .of_eq rfl
  · have hb := beginSendFrames_takesFromFront h
    rwa [TakesFromFront, refill_heldFrames] at hb

/-- Every rule but those of SETUP, RESET and SHUTDOWN keeps the order of the frames held. -/
theorem bodyOf_inOrder {i : Instr} {s t : State} (hst : Staged s) (h : bodyOf i s = .ok t) (h1 : i ≠ .setup)
    (h2 : i ≠ .reset) (h3 : i ≠ .shutdown) : InOrder s t := by
  cases i <;> simp only [bodyOf] at h
  case submitData o => exact submitBody_inOrder hst h
  case submitPause o => exact submitBody_inOrder hst h
  case submitFiller o => cases h; exact .of_eq rfl
  case rxData o => cases h; exact .of_eq (rxDataBody_heldFrames ..)
  case rxPause o => cases h; exact .of_eq (rxPauseBody_heldFrames ..)
  case rxFiller o => cases h; exact .of_eq rfl
  case txEnd =>
    obtain ⟨f, -, hs, rfl⟩ := txEndBody_ok h
    have ht := onTransmissionEnd_takesFromFront hs
    rw [TakesFromFront, disarm_heldFrames] at ht
    exact .inl ht
  case ifgEnd => exact .inl (waitEnd_takesFromFront (ifgEndBody_ok h).2)
  case pauseEnd => exact .inl (waitEnd_takesFromFront (pauseEndBody_ok h).2)
  case setAdmin d => exact .inl (setAdminBody_takesFromFront h)
  case shutdown => exact absurd rfl h3
  case setup => exact absurd rfl h1
  case reset => exact absurd rfl h2

theorem InHand.heldFrames {s u : State} (h : InHand s u) : heldFrames u = heldFrames s := by
  rw [h.eq]
  rfl

theorem step_inOrder {s t : State} (h : Inv s) (hst : step s = .next t) (hs : s.phase = .run) (ht : t.phase = .run) :
    InOrder s t := by
  cases step_outcome hst with
  | waits => exact .of_eq rfl
  | refused hand => exact .of_eq hand.heldFrames
  | halted hand => cases ht
  | @accepted u _ i hand acc body =>
    have hrun : u.phase = .run := hand.phase.trans hs
    have hphase := (bodyOf_phase body).symm.trans ht
    have hu : Staged u.arrive := (hand.inv h hrun).staged
    have h1 : i ≠ .setup := by
      rintro rfl
      exact absurd ((phase_of_accepted_setup acc).symm.trans hrun) nofun
    have hout := bodyOf_inOrder hu body h1 (by rintro rfl; cases hphase) (by rintro rfl; cases hphase)
    exact hout.congr hand.heldFrames

/-- Settles O56: a step within RUN takes from the front, or adds at the back. -/
theorem noFrameOvertakesAnother : Obligations.NoFrameOvertakesAnother := by
  intro s t h hst hs ht
  rcases step_inOrder h hst hs ht with ⟨k, hk⟩ | ⟨new, hnew, hlen⟩
  · exact ⟨k, [], by rw [hk, List.append_nil], Nat.zero_le _, .inr rfl⟩
  · exact ⟨0, new, hnew, hlen, .inl rfl⟩

end Sys2Proof.Machine
end

section
/-!
## What SUBMIT leaves unchanged (R100)
-/

namespace Sys2Proof.Machine

/-- The counters of the upper layer, which SUBMIT may add to (R40, R100). -/
def upperCtrs : List Ctr := [.fromUpper, .dropUpDisconn, .dropUpDisabled, .dropQfull]

theorem dropCtr_mem_upperCtrs (s : State) : dropCtr s ∈ upperCtrs := by
  unfold dropCtr
  split <;> decide

/-- What no part of SUBMIT's rule changes of the transmit side and of the receive side; from IDLE it may start a
frame. -/
structure UpperOnly (s t : State) : Prop where
  pendingPause : t.pendingPause = s.pendingPause
  ifgEndAt : t.ifgEndAt = s.ifgEndAt
  pauseEndAt : t.pauseEndAt = s.pauseEndAt
  lastTxFinishTime : t.lastTxFinishTime = s.lastTxFinishTime
  rxOkTime : t.rxOkTime = s.rxOkTime
  busy : s.txState ≠ .idle → t.txState = s.txState ∧ t.txEndAt = s.txEndAt
  counters : ∀ c, c ∉ upperCtrs → t.counters.get c = s.counters.get c

namespace UpperOnly

theorem refl (s : State) : UpperOnly s s := ⟨rfl, rfl, rfl, rfl, rfl, fun _ => ⟨rfl, rfl⟩, fun _ _ => rfl⟩

theorem trans {s t u : State} (h : UpperOnly s t) (k : UpperOnly t u) : UpperOnly s u where
  pendingPause := k.pendingPause.trans h.pendingPause
  ifgEndAt := k.ifgEndAt.trans h.ifgEndAt
  pauseEndAt := k.pauseEndAt.trans h.pauseEndAt
  lastTxFinishTime := k.lastTxFinishTime.trans h.lastTxFinishTime
  rxOkTime := k.rxOkTime.trans h.rxOkTime
  busy hx := by
    obtain ⟨h1, h2⟩ := h.busy hx
    obtain ⟨k1, k2⟩ := k.busy (h1 ▸ hx)
    exact ⟨k1.trans h1, k2.trans h2⟩
  counters c hc := (k.counters c hc).trans (h.counters c hc)

end UpperOnly

theorem addTo_upperOnly (s : State) {k : Ctr} (n : Nat) (hk : k ∈ upperCtrs) : UpperOnly s (s.addTo k n) where
  pendingPause := rfl
  ifgEndAt := rfl
  pauseEndAt := rfl
  lastTxFinishTime := rfl
  rxOkTime := rfl
  busy _ := ⟨rfl, rfl⟩
  counters c hc := s.counters.get_add_other k c n fun h => hc (h ▸ hk)

theorem refill_upperOnly (s : State) : UpperOnly s (refill s) := by
  rcases refill_cases s with ⟨e, -⟩ | ⟨f, rest, -, -, -, e⟩ | ⟨-, -, -, e⟩ <;> rw [e] <;>
    exact ⟨rfl, rfl, rfl, rfl, rfl, fun _ => ⟨rfl, rfl⟩, fun _ _ => rfl⟩

theorem dropAtGate_upperOnly (s : State) : UpperOnly s (dropAtGate s) := by
  have hdrop : UpperOnly s (dropUpper s) := dropUpper_eq s ▸ addTo_upperOnly s 1 (dropCtr_mem_upperCtrs s)
  have hpull : UpperOnly (dropUpper s) { dropUpper s with pullPending := false } :=
    ⟨rfl, rfl, rfl, rfl, rfl, fun _ => ⟨rfl, rfl⟩, fun _ _ => rfl⟩
  unfold dropAtGate
  split
  · exact hdrop
  · exact (hdrop.trans hpull).trans (refill_upperOnly _)

theorem admit_upperOnly {s t : State} {g : Frame} (h : admission g s = .ok t) : UpperOnly s t := by
  rcases admit_ok_cases h with ⟨-, -, e⟩ | ⟨-, -, -, e⟩ | ⟨-, -, -, -, e⟩ | ⟨f, rest, -, -, -, -, e⟩ | ⟨-, -, e⟩ <;>
    rw [e]
  · exact (addTo_upperOnly s 1 (k := .dropQfull) (by decide)).trans
      ⟨rfl, rfl, rfl, rfl, rfl, fun _ => ⟨rfl, rfl⟩, fun _ _ => rfl⟩
  all_goals exact ⟨rfl, rfl, rfl, rfl, rfl, fun _ => ⟨rfl, rfl⟩, fun _ _ => rfl⟩

theorem drained_upperOnly {s : State} (hx : s.txState = .idle) : UpperOnly s (drained s) := by
  have hc : ∀ n c, c ∉ upperCtrs → (s.counters.add (dropCtr s) n).get c = s.counters.get c := fun n =>
    (addTo_upperOnly s n (dropCtr_mem_upperCtrs s)).counters
  unfold drained
  split <;> exact ⟨rfl, rfl, rfl, rfl, rfl, fun h => absurd hx h, hc _⟩

/-- From IDLE a frame may start: only the transmission timer is armed (R106, R123). -/
theorem startIfIdle_upperOnly {s t : State} (h : startIfIdle s = .ok t) : UpperOnly s t := by
  by_cases hx : s.txState = .idle
  · rw [startIfIdle_idle hx] at h
    rcases beginSendFrames_cases s with ⟨-, e⟩ | ⟨-, -, e⟩ | ⟨f, -, -, -, e⟩ | ⟨f, -, -, -, e⟩ <;> rw [e] at h <;>
      cases h
    · exact .refl s
    · exact ⟨rfl, rfl, rfl, rfl, rfl, fun hx' => absurd hx hx', fun _ _ => rfl⟩
    · exact ⟨rfl, rfl, rfl, rfl, rfl, fun hx' => absurd hx hx', fun _ _ => rfl⟩
    · exact drained_upperOnly hx
  · rw [startIfIdle_busy hx] at h
    cases h
    exact .refl s

theorem submitBody_upperOnly {s t : State} {f : Frame} (h : submitBody f s = .ok t) : UpperOnly s t := by
  have hcount : UpperOnly s (s.addTo .fromUpper 1) := addTo_upperOnly s 1 (by decide)
  obtain ⟨-, -, ⟨-, rfl⟩ | ⟨-, u, ha, hs⟩⟩ := submitBody_ok_cases h
  · exact hcount.trans (dropAtGate_upperOnly _)
  · exact (hcount.trans (admit_upperOnly ha)).trans (startIfIdle_upperOnly hs)

/-! ### The rule of SUBMIT by the frame it makes -/

/-- The rule of a SUBMIT of a DATA or PAUSE frame (R100). -/
theorem bodyOf_submitInstr {k : Kind} (hk : k ≠ .filler) (o : SubmitOperands) (s : State) :
    bodyOf (submitInstr k o) s = submitBody (frameOfSubmit k o s.cur.payload) s := by
  cases k with
  | data | pause => rfl
  | filler => exact absurd rfl hk

/-- Settles O31: a refusal and a halt write none of these; the rule itself keeps the launch, the model's own fields, and
all but the upper side. -/
theorem submitLeavesTheRest : Obligations.SubmitLeavesTheRest := by
  intro k o s t hk he
  have hctr : ∀ c : Ctr, c ≠ .fromUpper → c ≠ .dropUpDisconn → c ≠ .dropUpDisabled → c ≠ .dropQfull → c ∉ upperCtrs := by
    simp +contextual [upperCtrs]
  rcases exec_cases (submitInstr k o) s with ⟨-, e⟩ | ⟨v, -, hb, e⟩ | ⟨code, info, hacc, hb, e⟩ <;> rw [e] at he <;>
    cases he
  · simp
  · rw [bodyOf_submitInstr hk] at hb
    have hu := submitBody_upperOnly hb
    have hl := submitBody_sameLaunch hb
    have hx := submitBody_extends hb
    exact ⟨hu.pendingPause, hl.connected, hl.disabled, hl.address, hl.tSetup, hu.ifgEndAt, hu.pauseEndAt,
      hu.lastTxFinishTime, hl.cfg, hx.overheadBytes, hu.rxOkTime, hx.inbox, hx.cur, hx.ties, hx.tieDraws, hu.busy,
      fun hp => absurd hl.phase hp, fun _ => hl.fault,
      fun c h1 h2 h3 h4 => hu.counters c (hctr c h1 h2 h3 h4)⟩
  · have hrun : s.phase = .run := phase_of_accepted hacc (by cases k <;> exact nofun) (by cases k <;> exact nofun)
    simp [hrun]

end Sys2Proof.Machine
end

section
/-! ## The four cases of refill (R110) -/

namespace Sys2Proof.Machine

/-- In INTERNAL mode an empty slot takes the head of the queue, if there is one. -/
theorem refill_internal {s : State} (hs : s.slot = none) (hm : s.cfg.queueMode = .internal) :
    refill s = { s with slot := s.queue.head?, queue := s.queue.tail } := by
  cases hq : s.queue with
  | nil =>
    rw [refill_internal_empty hm hq, List.head?_nil, List.tail_nil, ← hs, ← hq]
  | cons f rest => exact refill_internal_head hs hm hq

/-- Settles O32: one lemma a case. -/
theorem refillFollowsItsRule : Obligations.RefillFollowsItsRule := fun _ =>
  ⟨refill_staged, refill_internal, fun _ hm hp => refill_external_pending hm hp, refill_external_pull⟩

end Sys2Proof.Machine
end

section
/-!
## SUBMIT case by case (R101 to R106)

The rule runs on the state whose time has moved to the event's stamp; each branch is one lemma about `submitBody`, and
the state it reaches is written out.
-/

namespace Sys2Proof.Machine

/-- A SUBMIT of a DATA or PAUSE frame in RUN, not in the past, is accepted, and its rule decides (R100, R213, R220). -/
theorem exec_submitInstr {k : Kind} {s : State} (hk : k ≠ .filler) (o : SubmitOperands) (hrun : s.phase = .run)
    (hnow : s.now ≤ s.cur.stamp) :
    exec (submitInstr k o) s = .next (conclude s (submitBody (frameOfSubmit k o s.cur.payload) s.arrive)) := by
  have hacc : ¬ RefusedEvent (submitInstr k o) s := by
    cases k with
    | data | pause => exact not_or.2 ⟨not_not.2 hrun, not_lt.2 hnow⟩
    | filler => exact absurd rfl hk
  rw [exec_accepted hacc, bodyOf_submitInstr hk]
  rfl

theorem frameOfSubmit_len (k : Kind) (o : SubmitOperands) (p : Payload) :
    (frameOfSubmit k o p).len.toNat = o.len % 65536 := BitVec.toNat_ofNat ..

/-- Settles O25: the two fatal checks come before the padding and the gate. -/
theorem submitFatalChecks : Obligations.SubmitFatalChecks := by
  intro k o s hk hrun hnow
  refine ⟨fun hself => ?_, fun hother hmax => ?_⟩ <;> rw [exec_submitInstr hk o hrun hnow]
  · rw [submitBody_self (s := s.arrive) hself]
    rfl
  · rw [submitBody_oversize (s := s.arrive) hother (by rwa [frameOfSubmit_len])]
    rfl

/-- Settles O26: the drop at the gate, in each queue mode and with either slot. -/
theorem submitIsDroppedAtTheClosedGate : Obligations.SubmitIsDroppedAtTheClosedGate := by
  intro k o s hk hrun hnow hother hmax hgate
  rw [exec_submitInstr hk o hrun hnow, submitBody_gate (s := s.arrive) hother (by rwa [frameOfSubmit_len])
    ((gateClosed_iff _).2 hgate), conclude_ok]
  congr 1
  split
  case h_1 hm => exact dropAtGate_internal hm
  case h_2 hm hs => exact dropAtGate_external_staged hm (Option.ne_none_iff_exists'.2 ⟨_, hs⟩)
  case h_3 hm hs => exact dropAtGate_external_empty hm hs

/-! ### The frame admitted (R103) -/

theorem readyFrame_len (k : Kind) (o : SubmitOperands) (s : State) :
    (readyFrame k o s).len.toNat = max (o.len % 65536) s.cfg.minFrameBytes := by
  have := s.cfg.minFrameBytes_lt
  simp only [readyFrame, BitVec.toNat_ofNat]
  omega

/-- The frame that goes to admission, field by field. -/
theorem readied_frameOfSubmit (k : Kind) (o : SubmitOperands) (s : State) :
    readied s.arrive (frameOfSubmit k o s.cur.payload) = readyFrame k o s := by
  have hlen : (readied s.arrive (frameOfSubmit k o s.cur.payload)).len = (readyFrame k o s).len := by
    apply BitVec.eq_of_toNat_eq
    rw [readied_len, frameOfSubmit_len, readyFrame_len, State.arrive_cfg]
  calc readied s.arrive (frameOfSubmit k o s.cur.payload)
      = { readied s.arrive (frameOfSubmit k o s.cur.payload) with len := (readyFrame k o s).len } := by rw [← hlen]
    _ = readyFrame k o s := rfl

/-- Past the fatal checks and the open gate the readied frame goes to admission, and an idle engine starts (R100). -/
theorem exec_submitInstr_open {k : Kind} {o : SubmitOperands} {s : State} (hk : k ≠ .filler) (hrun : s.phase = .run)
    (hnow : s.now ≤ s.cur.stamp) (hother : o.dst ≠ s.address) (hmax : o.len % 65536 ≤ s.cfg.maxFrameBytes)
    (hc : s.connected = true) (hd : s.disabled = false) :
    exec (submitInstr k o) s = .next (conclude s
      ((admission (readyFrame k o s) (s.arrive.addTo .fromUpper 1)).bind startIfIdle)) := by
  rw [exec_submitInstr hk o hrun hnow, submitBody_admit (s := s.arrive) hother (by rwa [frameOfSubmit_len])
    ((gateOpen_iff _).2 ⟨hc, hd⟩), readied_frameOfSubmit]

/-- With an empty slot the frames that waited and the new one move up by one (R104). -/
theorem admit_internal_empty {s : State} {g : Frame} (hm : s.cfg.queueMode = .internal)
    (hl : s.queue.length < s.cfg.queueLimit) (hs : s.slot = none) :
    admission g s = .ok { s with slot := (s.queue ++ [g]).head?, queue := (s.queue ++ [g]).tail } := by
  cases hq : s.queue with
  | nil =>
    rw [admit_internal_staged hm hl hs hq, List.nil_append, List.head?_cons, List.tail_cons, ← hq]
  | cons f rest => exact admit_internal_head hm hl hs hq

/-- Outside IDLE what admission reaches is what the event leaves (R106). -/
theorem bind_startIfIdle_busy {s t : State} {b : Body} (hb : b = .ok t) (hx : t.txState ≠ .idle) :
    conclude s (b.bind startIfIdle) = t := by
  rw [hb, Except.bind, startIfIdle_busy hx, conclude_ok]

/-- Settles O28: the queue behind an occupied slot, the queue behind an empty one, and the slot of EXTERNAL mode. -/
theorem submitWhenBusyWaitsInOrder : Obligations.SubmitWhenBusyWaitsInOrder := by
  intro k o s hk hrun hnow hother hmax hc hd hx
  rw [exec_submitInstr_open hk hrun hnow hother hmax hc hd]
  refine ⟨fun hm hl => congrArg _ ?_, fun hm hs => congrArg _ ?_⟩
  · split
    case isTrue hs => exact bind_startIfIdle_busy (admit_internal_empty hm hl hs) hx
    case isFalse hs => exact bind_startIfIdle_busy (admit_internal_queued hm hl hs) hx
  · exact bind_startIfIdle_busy (admit_external_staged hm hs) hx

/-- Settles O29: a full queue under each overflow policy, and the occupied slot of EXTERNAL mode. -/
theorem submitWithNoRoom : Obligations.SubmitWithNoRoom := by
  intro k o s hk hrun hnow hother hmax hc hd
  rw [exec_submitInstr_open hk hrun hnow hother hmax hc hd]
  refine ⟨fun hm hl hp => congrArg _ ?_, fun hm hl hp hx => congrArg _ ?_, fun hm hs => congrArg _ ?_⟩
  · rw [admit_overflow_fatal (s := s.arrive.addTo .fromUpper 1) hm hl hp]
    rfl
  · exact bind_startIfIdle_busy (admit_overflow_reject hm hl hp) hx
  · rw [admit_external_busy (s := s.arrive.addTo .fromUpper 1) hm hs]
    rfl

/-! ### The frame started at once (R106, R123, R124) -/

/-- A wire time at a legal line rate, in bits over bits per second (R124). -/
theorem wireTime_eq_div {c : CfgRegs} (w : Half) (h : 1 ≤ c.lineRate) :
    c.wireTime w = ((w.toNat * 8 : Nat) : Rat) / (c.lineRate : Rat) := bitTime_eq_div _ _ (by omega)

/-- With nothing held the frame admitted is staged, in either queue mode; EXTERNAL mode has its pull answered (R104,
R105). -/
theorem admit_empty {s : State} {g : Frame} (hs : s.slot = none) (hq : s.queue = [])
    (hl : s.cfg.queueMode = .internal → 1 ≤ s.cfg.queueLimit) :
    admission g s = .ok
      { s with slot := some g, pullPending := if s.cfg.queueMode = .external then false else s.pullPending } := by
  cases hm : s.cfg.queueMode with
  | internal =>
    have hroom : s.queue.length < s.cfg.queueLimit := by
      rw [hq]
      exact hl hm
    rw [admit_internal_staged hm hroom hs hq, if_neg nofun]
  | external => rw [admit_external_staged hm hs, if_pos rfl]

/-- In IDLE, behind the open gate, the frame that admission staged is started (R106). -/
theorem bind_startIfIdle_idle {s t : State} {b : Body} {f : Frame} (hb : b = .ok t) (hx : t.txState = .idle)
    (hs : t.slot = some f) (hg : gateClosed t = false) : conclude s (b.bind startIfIdle) = started f t := by
  rw [hb, Except.bind, startIfIdle_idle hx, beginSendFrames_start (by simp [hx]) hs hg, conclude_ok]

/-- The start of a readied frame as explicit updates: its duplicate at `now`, and the end after its wire time (R123,
R124). -/
theorem started_eq {s : State} {f : Frame} (hmin : s.cfg.minFrameBytes ≤ f.len.toNat) (hsrc : f.srcValid = true)
    (hrate : 1 ≤ s.cfg.lineRate) :
    let d : Frame := { f with wireLen := BitVec.ofNat 16 (f.len.toNat + s.overheadBytes), err := false }
    started f s =
      { s with out := s.out ++ [⟨s.now, .tx d⟩], txState := .transmitting,
               txEndAt := some (s.now + ((d.wireLen.toNat * 8 : Nat) : Rat) / (s.cfg.lineRate : Rat)) } := by
  rw [started, wireFrame_eq hmin hsrc, wireTime_eq_div _ hrate]
  rfl

/-- Settles O27: admission stages the frame, and the idle engine starts it behind the open gate. -/
theorem submitWhenIdleTransmitsAtOnce : Obligations.SubmitWhenIdleTransmitsAtOnce := by
  intro k o s hk hrun hnow hother hmax hc hd hx hs hq hl hrate
  have hmin : s.cfg.minFrameBytes ≤ (readyFrame k o s).len.toNat := by
    rw [readyFrame_len]
    exact Nat.le_max_right ..
  have hadmit := admit_empty (s := s.arrive.addTo .fromUpper 1) (g := readyFrame k o s) hs hq hl
  rw [exec_submitInstr_open hk hrun hnow hother hmax hc hd,
    bind_startIfIdle_idle hadmit hx rfl ((gateOpen_iff _).2 ⟨hc, hd⟩)]
  exact congrArg _ (started_eq hmin rfl hrate)

end Sys2Proof.Machine
end

section
/-!
## The three timer events (R126 to R131)

A genuine firing runs its rule on the state with time moved and the timer taken. The ends of the gap and of a pause are
one rule, `beginSendFrames`, in two protocol states; what is claimed of them is proved once for both.
-/

namespace Sys2Proof.Machine

/-! ### A genuine firing -/

/-- The firing of a timer that is due is accepted (R87, R210, R213). -/
theorem Due.accepted {T : Timer} {s : State} (h : Due T s) : ¬ RefusedEvent T.event s := by
  obtain ⟨hrun, hsrc, hT, hnow⟩ := h
  have hgenuine : ¬ (s.phase ≠ .run ∨ s.cur.stamp < s.now ∨ s.cur.source = .environment ∨
      s.timerAt T ≠ some s.cur.stamp) := by
    simp [hrun, hsrc, hT, hnow]
  cases T <;> exact hgenuine

theorem exec_due {T : Timer} {s : State} (h : Due T s) :
    exec T.event s = .next (conclude s (bodyOf T.event s.arrive)) :=
  exec_accepted h.accepted

theorem exec_due_error {T : Timer} {s : State} {code : Fatal} {info : FaultInfo} (h : Due T s)
    (hb : bodyOf T.event s.arrive = .error (code, info)) : exec T.event s = .next (s.halt code info) := by
  rw [exec_due h, hb, conclude_error]

/-! ### The end of a transmission -/

theorem txEndBody_badState {s : State} (hx : s.txState ≠ .transmitting) :
    txEndBody s = .error (.txendBadState, .state s.txState) := by
  simp [txEndBody, hx]

theorem txEndBody_noFrame {s : State} (hx : s.txState = .transmitting) (hs : s.slot = none) :
    txEndBody s = .error (.txendNoFrame, .state s.txState) := by
  simp [txEndBody, hx, hs]

theorem txEndBody_frame {s : State} {f : Frame} (hx : s.txState = .transmitting) (hs : s.slot = some f) :
    txEndBody s = .ok (onTransmissionEnd f s) := by
  simp [txEndBody, hx, hs]

/-- `refill` of an empty slot, both queue modes in one state (R110). -/
theorem refill_of_empty {s : State} (hs : s.slot = none) :
    refill s =
      { s with slot := if s.cfg.queueMode = .internal then s.queue.head? else none,
               queue := if s.cfg.queueMode = .internal then s.queue.tail else s.queue,
               pullPending := decide (s.cfg.queueMode = .external) || s.pullPending,
               out := if s.cfg.queueMode = .external ∧ s.pullPending = false
                 then s.out ++ [⟨s.now, .pull⟩] else s.out } := by
  cases hm : s.cfg.queueMode with
  | internal => simp [refill_internal hs hm]
  | external =>
    cases hp : s.pullPending with
    | true =>
      simp only [refill_external_pending hm hp, reduceCtorEq, if_false, and_false, decide_true, Bool.or_true]
      rw [← hs, ← hp]
    | false => simp [refill_external_pull hs hm hp, State.emit, ← hs]

/-- A pause at a legal line rate, in bits over bits per second (R131). -/
theorem pauseTime_eq_div {c : CfgRegs} (u : Half) (h : 1 ≤ c.lineRate) :
    c.pauseTime u = ((u.toNat * c.pauseUnitBits : Nat) : Rat) / (c.lineRate : Rat) := bitTime_eq_div _ _ (by omega)

/-- The gap at a legal line rate, in bits over bits per second (R129). -/
theorem gapTime_eq_div {c : CfgRegs} (h : 1 ≤ c.lineRate) :
    c.gapTime = (c.interFrameGapBits : Rat) / (c.lineRate : Rat) := bitTime_eq_div _ _ (by omega)

/-- The pause or the gap, its length in bits over bits per second (R127, R129, R131). -/
theorem pauseOrGap_eq_div {s : State} (h : 1 ≤ s.cfg.lineRate) :
    pauseOrGap s =
      if 1 ≤ s.pendingPause.toNat then
        { s with pendingPause := 0, txState := .paused,
                 pauseEndAt := some (s.now +
                   ((s.pendingPause.toNat * s.cfg.pauseUnitBits : Nat) : Rat) / (s.cfg.lineRate : Rat)) }
      else
        { s with txState := .waitIfg,
                 ifgEndAt := some (s.now + (s.cfg.interFrameGapBits : Rat) / (s.cfg.lineRate : Rat)) } := by
  have hlatched : s.pendingPause ≠ 0 ↔ 1 ≤ s.pendingPause.toNat := by
    rw [ne_eq, ← BitVec.toNat_inj, Nat.one_le_iff_ne_zero]
    rfl
  simp only [pauseOrGap_eq, hlatched, pauseTime_eq_div _ h, gapTime_eq_div h]

/-- Settles O34: the frame is counted and its slot freed, the slot is refilled, and the pause or the gap begins. -/
theorem transmissionEndFinalisesTheFrame : Obligations.TransmissionEndFinalisesTheFrame := by
  intro s f hdue hx hs hrate
  have hbody : bodyOf .txEnd s.arrive = .ok (onTransmissionEnd f (s.arrive.disarm .txEnd)) := txEndBody_frame hx hs
  have hexec : exec .txEnd s = .next (conclude s (bodyOf .txEnd s.arrive)) := exec_due hdue
  rw [hexec, hbody, conclude_ok, onTransmissionEnd, countSent_eq, refill_of_empty rfl]
  exact congrArg Host.Outcome.next (pauseOrGap_eq_div hrate)

/-! ### The end of the gap or of a pause -/

theorem ifgEndBody_badState {s : State} (hx : s.txState ≠ .waitIfg) :
    ifgEndBody s = .error (.ifgendBadState, .state s.txState) := by
  simp [ifgEndBody, hx]

theorem pauseEndBody_badState {s : State} (hx : s.txState ≠ .paused) :
    pauseEndBody s = .error (.pauseendBadState, .state s.txState) := by
  simp [pauseEndBody, hx]

/-- Settles O35: each rule's state check comes first, TX_END's frame check after it; the halt is of the state before the
event. -/
theorem strayTimersHalt : Obligations.StrayTimersHalt := by
  intro s
  exact ⟨fun hdue hx => exec_due_error hdue (txEndBody_badState (s := s.arrive.disarm .txEnd) hx),
    fun hdue hx hs => exec_due_error hdue (txEndBody_noFrame (s := s.arrive.disarm .txEnd) hx hs),
    fun hdue hx => exec_due_error hdue (ifgEndBody_badState (s := s.arrive.disarm .ifgEnd) hx),
    fun hdue hx => exec_due_error hdue (pauseEndBody_badState (s := s.arrive.disarm .pauseEnd) hx)⟩

theorem arrive_sameLaunch (s : State) : SameLaunch s s.arrive := ⟨rfl, rfl, rfl, rfl, rfl, rfl, rfl⟩

/-- In its own protocol state the end of the gap or of a pause begins to send (R128, R130). -/
theorem bodyOf_waitEnd {T : Timer} {s : State} (hT : T ≠ .txEnd) (hx : s.txState = T.runsIn) :
    bodyOf T.event s = beginSendFrames (s.disarm T) := by
  cases T with
  | txEnd => exact absurd rfl hT
  | ifgEnd => exact if_neg (not_not.2 hx)
  | pauseEnd => exact if_neg (not_not.2 hx)

/-- The timer of the gap or of a pause fires in its own protocol state; `u` is `s` with time moved and the timer taken. -/
def WaitEnds (T : Timer) (s u : State) : Prop :=
  T ≠ .txEnd ∧ Due T s ∧ s.txState = T.runsIn ∧ u = s.arrive.disarm T

/-- The two timers that end a wait, as the statements spell them. -/
theorem exists_waitEnds {i : Instr} {s u : State}
    (h : (i = .ifgEnd ∧ Due .ifgEnd s ∧ s.txState = .waitIfg ∧ u = { s with now := s.cur.stamp, ifgEndAt := none }) ∨
      (i = .pauseEnd ∧ Due .pauseEnd s ∧ s.txState = .paused ∧ u = { s with now := s.cur.stamp, pauseEndAt := none })) :
    ∃ T, i = T.event ∧ WaitEnds T s u := by
  rcases h with ⟨hi, hdue, hx, hu⟩ | ⟨hi, hdue, hx, hu⟩
  · exact ⟨.ifgEnd, hi, nofun, hdue, hx, hu⟩
  · exact ⟨.pauseEnd, hi, nofun, hdue, hx, hu⟩

namespace WaitEnds

variable {T : Timer} {s u : State} (h : WaitEnds T s u)
include h

theorem exec_eq : exec T.event s = .next (conclude s (beginSendFrames u)) := by
  obtain ⟨hT, hdue, hx, rfl⟩ := h
  rw [exec_due hdue, bodyOf_waitEnd (s := s.arrive) hT hx]

theorem not_transmitting : u.txState ≠ .transmitting := by
  obtain ⟨hT, -, hx, rfl⟩ := h
  rw [State.disarm_txState, State.arrive_txState, hx]
  exact fun hc => hT ((Timer.runsIn_inj (T' := .txEnd)).1 hc)

theorem sameLaunch : SameLaunch s u := by
  obtain ⟨-, -, -, rfl⟩ := h
  exact (arrive_sameLaunch s).trans (disarm_sameLaunch s.arrive T)

theorem slot : u.slot = s.slot := by
  obtain ⟨-, -, -, rfl⟩ := h
  exact State.disarm_slot s.arrive T

/-- With nothing staged the block settles in IDLE (R121). -/
theorem exec_empty (hs : s.slot = none) : exec T.event s = .next { u with txState := .idle } := by
  rw [h.exec_eq, beginSendFrames_empty h.not_transmitting (h.slot.trans hs), conclude_ok]

/-- Behind the open gate the staged frame's duplicate goes out (R121, R123). -/
theorem exec_start {f : Frame} (hs : s.slot = some f) (hg : gateClosed s = false) :
    exec T.event s = .next (started f u) := by
  rw [h.exec_eq, beginSendFrames_start h.not_transmitting (h.slot.trans hs) (h.sameLaunch.gateClosed.trans hg),
    conclude_ok]

/-- At the closed gate everything that waits is dropped (R121). -/
theorem exec_drain {f : Frame} (hs : s.slot = some f) (hg : gateClosed s = true) :
    exec T.event s = .next (drained u) := by
  rw [h.exec_eq, beginSendFrames_drain h.not_transmitting (h.slot.trans hs) (h.sameLaunch.gateClosed.trans hg),
    conclude_ok]

end WaitEnds

/-- Settles O36: nothing staged, or the staged frame started behind the open gate. -/
theorem gapOrPauseEndStartsTheStagedFrame : Obligations.GapOrPauseEndStartsTheStagedFrame := by
  intro s u i hends hrate
  obtain ⟨T, rfl, h⟩ := exists_waitEnds hends
  refine ⟨h.exec_empty, fun f hs hc hd => ?_⟩
  rw [h.exec_start hs ((gateOpen_iff s).2 ⟨hc, hd⟩), started, wireTime_eq_div _ (h.sameLaunch.cfg ▸ hrate)]
  obtain ⟨-, -, -, rfl⟩ := h
  cases T <;> rfl

theorem drained_internal {s : State} (hm : s.cfg.queueMode = .internal) :
    drained s =
      { s with slot := none, queue := [], counters := s.counters.add (dropCtr s) (s.queue.length + 1),
               txState := .idle } := by
  simp only [drained, hm]

theorem drained_external {s : State} (hm : s.cfg.queueMode = .external) :
    drained s =
      { s with slot := none, counters := s.counters.add (dropCtr s) 1, pullPending := true,
               out := if s.pullPending then s.out else s.out ++ [⟨s.now, .pull⟩], txState := .idle } := by
  simp only [drained, hm]

/-- Settles O37: the gate loop in each queue mode. -/
theorem gapOrPauseEndDropsWhenTheGateIsClosed : Obligations.GapOrPauseEndDropsWhenTheGateIsClosed := by
  intro s u i f hends hs hgate
  obtain ⟨T, rfl, h⟩ := exists_waitEnds hends
  rw [h.exec_drain hs ((gateClosed_iff s).2 hgate)]
  refine ⟨fun hm => ?_, fun hm => ?_⟩
  · rw [drained_internal (h.sameLaunch.cfg ▸ hm)]
    obtain ⟨-, -, -, rfl⟩ := h
    cases T <;> rfl
  · rw [drained_external (h.sameLaunch.cfg ▸ hm)]
    obtain ⟨-, -, -, rfl⟩ := h
    cases T <;> rfl

end Sys2Proof.Machine
end

section
/-!
## What the timer events leave unchanged (R126, R127, R128, R130)

A timer's rule keeps the launch and the model's own fields, as every rule of RUN does; what is its own is which counters
it may add to, and that only TX_END writes the finish time and the latch.
-/

namespace Sys2Proof.Machine

/-- The counters a timer's rule may add to: the sent statistics (R127), or the drops at the closed gate (R121). -/
def Timer.ctrs : Timer → List Ctr
  | .txEnd => [.txFrames, .txBytes, .txPause, .txPauseUnits]
  | .ifgEnd => [.dropUpDisconn, .dropUpDisabled]
  | .pauseEnd => [.dropUpDisconn, .dropUpDisabled]

/-- The counters no timer's rule adds to. -/
def untimedCtrs : List Ctr :=
  [.fromUpper, .rxOkFrames, .rxOkBytes, .rxPause, .rxPauseUnits, .dropRxDisconn, .dropRxDisabled, .dropBiterr,
    .dropQfull]

theorem Timer.not_mem_ctrs_of_untimed (T : Timer) : ∀ c ∈ untimedCtrs, c ∉ T.ctrs := by cases T <;> decide

theorem Timer.sent_not_mem_ctrs {T : Timer} (h : T ≠ .txEnd) : ∀ c ∈ Timer.txEnd.ctrs, c ∉ T.ctrs := by
  cases T with
  | txEnd => exact absurd rfl h
  | ifgEnd | pauseEnd => decide

theorem dropCtr_mem_ctrs {T : Timer} (h : T ≠ .txEnd) (s : State) : dropCtr s ∈ T.ctrs := by
  cases T with
  | txEnd => exact absurd rfl h
  | ifgEnd | pauseEnd =>
    unfold dropCtr
    split <;> decide

/-- `t` differs from `s` in the counters `ks` only, and has received for as long. -/
structure CountsOnly (ks : List Ctr) (s t : State) : Prop where
  rxOkTime : t.rxOkTime = s.rxOkTime
  counters : ∀ c, c ∉ ks → t.counters.get c = s.counters.get c

namespace CountsOnly

variable {ks : List Ctr}

theorem of_eq {s t : State} (h1 : t.rxOkTime = s.rxOkTime) (h2 : t.counters = s.counters) : CountsOnly ks s t :=
  ⟨h1, fun c _ => by rw [h2]⟩

theorem trans {s t u : State} (h : CountsOnly ks s t) (k : CountsOnly ks t u) : CountsOnly ks s u :=
  ⟨k.rxOkTime.trans h.rxOkTime, fun c hc => (k.counters c hc).trans (h.counters c hc)⟩

/-- An update that adds to one of the counters. -/
theorem of_add {s t : State} {k : Ctr} {n : Nat} (hk : k ∈ ks) (h1 : t.rxOkTime = s.rxOkTime)
    (h2 : t.counters = s.counters.add k n) : CountsOnly ks s t :=
  ⟨h1, fun c hc => by rw [h2, s.counters.get_add_other k c n fun h => hc (h ▸ hk)]⟩

end CountsOnly

theorem disarm_countsOnly {ks : List Ctr} (s : State) (T : Timer) : CountsOnly ks s (s.disarm T) :=
  .of_eq (s.disarm_rxOkTime T) (s.disarm_counters T)

theorem refill_countsOnly {ks : List Ctr} (s : State) : CountsOnly ks s (refill s) := by
  rcases refill_cases s with ⟨e, -⟩ | ⟨f, rest, -, -, -, e⟩ | ⟨-, -, -, e⟩ <;> rw [e] <;> exact .of_eq rfl rfl

theorem pauseOrGap_countsOnly {ks : List Ctr} (s : State) : CountsOnly ks s (pauseOrGap s) := by
  rw [pauseOrGap_eq]
  split <;> exact .of_eq rfl rfl

/-- Only the sent statistics are counted at a transmission's end (R127). -/
theorem countSent_countsOnly (f : Frame) (s : State) : CountsOnly Timer.txEnd.ctrs s (countSent f s) := by
  unfold countSent
  split
  · exact .trans (.of_add (t := s.count .txPause) (k := .txPause) (by decide) rfl rfl)
      (.of_add (k := .txPauseUnits) (by decide) rfl rfl)
  · exact .trans (.of_add (t := s.count .txFrames) (k := .txFrames) (by decide) rfl rfl)
      (.of_add (k := .txBytes) (by decide) rfl rfl)

theorem onTransmissionEnd_countsOnly (f : Frame) (s : State) :
    CountsOnly Timer.txEnd.ctrs s (onTransmissionEnd f s) := by
  have hfree : CountsOnly Timer.txEnd.ctrs (countSent f s)
      { countSent f s with slot := none, lastTxFinishTime := some s.now } := .of_eq rfl rfl
  exact (((countSent_countsOnly f s).trans hfree).trans (refill_countsOnly _)).trans (pauseOrGap_countsOnly _)

/-- Beginning to send counts only the frames dropped at the closed gate, and touches neither the finish time nor the
latch (R121). -/
theorem beginSendFrames_drops {T : Timer} (hT : T ≠ .txEnd) {s t : State} (h : beginSendFrames s = .ok t) :
    CountsOnly T.ctrs s t ∧ t.lastTxFinishTime = s.lastTxFinishTime ∧ t.pendingPause = s.pendingPause := by
  rcases beginSendFrames_cases s with ⟨-, e⟩ | ⟨-, -, e⟩ | ⟨f, -, -, -, e⟩ | ⟨f, -, -, -, e⟩ <;> rw [e] at h <;>
    cases h
  · exact ⟨.of_eq rfl rfl, rfl, rfl⟩
  · exact ⟨.of_eq rfl rfl, rfl, rfl⟩
  · exact ⟨.of_eq rfl rfl, rfl, rfl⟩
  · unfold drained
    split <;> exact ⟨.of_add (dropCtr_mem_ctrs hT s) rfl rfl, rfl, rfl⟩

theorem bodyOf_timer_countsOnly {T : Timer} {s t : State} (h : bodyOf T.event s = .ok t) : CountsOnly T.ctrs s t := by
  cases T with
  | txEnd =>
    obtain ⟨f, -, -, rfl⟩ := txEndBody_ok h
    exact (disarm_countsOnly s .txEnd).trans (onTransmissionEnd_countsOnly f _)
  | ifgEnd =>
    exact (disarm_countsOnly s .ifgEnd).trans (beginSendFrames_drops (T := .ifgEnd) nofun (ifgEndBody_ok h).2).1
  | pauseEnd =>
    exact (disarm_countsOnly s .pauseEnd).trans (beginSendFrames_drops (T := .pauseEnd) nofun (pauseEndBody_ok h).2).1

/-- Only TX_END writes the finish time and the latch (R35, R127). -/
theorem bodyOf_timer_finish {T : Timer} (hT : T ≠ .txEnd) {s t : State} (h : bodyOf T.event s = .ok t) :
    t.lastTxFinishTime = s.lastTxFinishTime ∧ t.pendingPause = s.pendingPause := by
  cases T with
  | txEnd => exact absurd rfl hT
  | ifgEnd => exact (beginSendFrames_drops hT (ifgEndBody_ok h).2).2
  | pauseEnd => exact (beginSendFrames_drops hT (pauseEndBody_ok h).2).2

/-- Settles O38: a refusal and a halt write none of these; a timer's rule keeps the launch, the model's own fields, and
all counters but its own. -/
theorem timerEventsLeaveTheRest : Obligations.TimerEventsLeaveTheRest := by
  intro T s t he
  rcases exec_cases T.event s with ⟨-, e⟩ | ⟨v, -, hb, e⟩ | ⟨code, info, hacc, -, e⟩ <;> rw [e] at he <;> cases he
  · simp
  · have hl : SameLaunch s.arrive t := bodyOf_sameLaunch hb (by cases T <;> simp [Timer.event])
    have hx := bodyOf_extends hb
    have hc := bodyOf_timer_countsOnly hb
    exact ⟨hl.connected, hl.disabled, hl.address, hl.tSetup, hl.cfg, hx.overheadBytes, hc.rxOkTime, hx.inbox, hx.cur,
      hx.ties, hx.tieDraws, fun hT => bodyOf_timer_finish (s := s.arrive) hT hb, fun hp => absurd hl.phase hp,
      fun _ => hl.fault, fun c hm => hc.counters c (T.not_mem_ctrs_of_untimed c hm),
      fun hT c hm => hc.counters c (Timer.sent_not_mem_ctrs hT c hm),
      fun hT => ⟨hc.counters _ (by rw [hT]; decide), hc.counters _ (by rw [hT]; decide)⟩⟩
  · have hrun : s.phase = .run := phase_of_accepted hacc (by cases T <;> exact nofun) (by cases T <;> exact nofun)
    simp [hrun]

end Sys2Proof.Machine
end

section
/-!
## The moves of the protocol state (R122)

The rows of the transition table as a relation; each rule of RUN keeps the protocol state or makes the move of its row.
-/

namespace Sys2Proof.Machine

/-- The rows of the transition table, with the event of each (R122). -/
inductive TableMove : Instr → TxState → TxState → Prop
  | submit (k : Kind) (o : SubmitOperands) : TableMove (submitInstr k o) .idle .transmitting
  | pauseReceived (o : RxOperands) : TableMove (.rxPause o) .idle .paused
  | sentToGap : TableMove .txEnd .transmitting .waitIfg
  | sentToPause : TableMove .txEnd .transmitting .paused
  | gapToIdle : TableMove .ifgEnd .waitIfg .idle
  | gapToNext : TableMove .ifgEnd .waitIfg .transmitting
  | pauseToIdle : TableMove .pauseEnd .paused .idle
  | pauseToNext : TableMove .pauseEnd .paused .transmitting

/-- Beginning to send ends in IDLE or with a frame on the wire (R120, R121). -/
theorem beginSendFrames_txState {s t : State} (hx : s.txState ≠ .transmitting) (h : beginSendFrames s = .ok t) :
    t.txState = .idle ∨ t.txState = .transmitting := by
  rcases beginSendFrames_cases s with ⟨hx', -⟩ | ⟨-, -, e⟩ | ⟨f, -, -, -, e⟩ | ⟨f, -, -, -, e⟩
  · exact absurd hx' hx
  all_goals
    rw [e] at h
    cases h
  · exact .inl rfl
  · exact .inr rfl
  · unfold drained
    split <;> exact .inl rfl

theorem dropAtGate_txState (s : State) : (dropAtGate s).txState = s.txState := by
  unfold dropAtGate
  split
  · rw [dropUpper_eq, State.addTo_txState]
  · rw [(refill_sameTimers _).txState, dropUpper_eq, State.addTo_txState]

/-- SUBMIT moves the protocol state only by starting a frame out of IDLE (R106). -/
theorem submitBody_txState {s t : State} {f : Frame} (h : submitBody f s = .ok t) :
    t.txState = s.txState ∨ (s.txState = .idle ∧ t.txState = .transmitting) := by
  obtain ⟨-, -, ⟨-, rfl⟩ | ⟨-, u, ha, hb⟩⟩ := submitBody_ok_cases h
  · exact .inl (dropAtGate_txState _)
  · have hu : u.txState = s.txState := (admit_sameTimers ha).txState
    by_cases hi : u.txState = .idle
    · rw [startIfIdle_idle hi] at hb
      rcases beginSendFrames_txState (by simp [hi]) hb with hx | hx
      · exact .inl (hx.trans (hi.symm.trans hu))
      · exact .inr ⟨hu.symm.trans hi, hx⟩
    · rw [startIfIdle_busy hi] at hb
      cases hb
      exact .inl hu

theorem submitBody_tableMove {s t : State} {f : Frame} (k : Kind) (o : SubmitOperands) (h : submitBody f s = .ok t) :
    t.txState = s.txState ∨ TableMove (submitInstr k o) s.txState t.txState := by
  refine (submitBody_txState h).imp_right fun ⟨hs, ht⟩ => ?_
  rw [hs, ht]
  exact .submit k o

theorem rxDataBody_txState (f : Frame) (s : State) : (rxDataBody f s).txState = s.txState := by
  rcases rxDataBody_cases f s with ⟨-, e⟩ | ⟨-, -, -, e⟩ | ⟨-, -, -, e⟩ | ⟨-, -, -, e⟩ | ⟨-, -, -, e⟩ <;> rw [e]
  · rfl
  · rfl
  · rfl
  · rw [deliverData_eq]

/-- A pause command moves the protocol state only out of IDLE (R160 to R163). -/
theorem processPauseCommand_txState (u : Half) (s : State) :
    (processPauseCommand u s).txState = s.txState ∨
      (s.txState = .idle ∧ (processPauseCommand u s).txState = .paused) := by
  rw [processPauseCommand_eq]
  split
  case h_1 hx =>
    split
    · exact .inl rfl
    · exact .inr ⟨hx, rfl⟩
  case h_2 hx => exact .inl hx.symm
  case h_3 | h_4 => exact .inl rfl

theorem rxPauseBody_txState (f : Frame) (s : State) :
    (rxPauseBody f s).txState = s.txState ∨ (s.txState = .idle ∧ (rxPauseBody f s).txState = .paused) := by
  rcases rxPauseBody_cases f s with ⟨-, e⟩ | ⟨-, -, e⟩ | ⟨-, -, -, e⟩ <;> rw [e]
  · exact .inl rfl
  · exact .inl rfl
  · exact processPauseCommand_txState f.pauseUnits ((s.addTo .rxPause 1).addTo .rxPauseUnits f.pauseUnits.toNat)

theorem onTransmissionEnd_txState (f : Frame) (s : State) :
    (onTransmissionEnd f s).txState = .waitIfg ∨ (onTransmissionEnd f s).txState = .paused := by
  rw [onTransmissionEnd, pauseOrGap_eq]
  split
  · exact .inr rfl
  · exact .inl rfl

/-- Refilling an empty slot stages nothing when nothing is queued (R110). -/
theorem refill_slot_none {s : State} (hs : s.slot = none) (hq : s.queue = []) : (refill s).slot = none := by
  rw [refill_of_empty hs, hq]
  simp

/-- An idle block holds nothing, so re-enabling it starts no frame (R44 item 3, R193). -/
theorem setAdminBody_txState {d : Bool} {s t : State} (h : s.txState = .idle → s.slot = none ∧ s.queue = [])
    (hb : setAdminBody d s = .ok t) : t.txState = s.txState := by
  rcases setAdminBody_cases d s with ⟨-, e⟩ | ⟨-, -, hx, e⟩ <;> rw [e] at hb
  · cases hb
    rfl
  · obtain ⟨hs, hq⟩ := h hx
    have hslot : (refill { s with disabled := false }).slot = none := refill_slot_none hs hq
    have hidle : (refill { s with disabled := false }).txState = .idle := (refill_sameTimers _).txState.trans hx
    rw [beginSendFrames_empty (by simp [hidle]) hslot] at hb
    cases hb
    exact hx.symm

/-- Every rule that begins and ends in RUN keeps the protocol state or makes a move of the table. -/
theorem bodyOf_tableMove {i : Instr} {s t : State} (h : s.txState = .idle → s.slot = none ∧ s.queue = [])
    (hb : bodyOf i s = .ok t) (h1 : i ≠ .setup) (h2 : i ≠ .reset) (h3 : i ≠ .shutdown) :
    t.txState = s.txState ∨ TableMove i s.txState t.txState := by
  cases i <;> simp only [bodyOf] at hb
  case submitData o => exact submitBody_tableMove .data o hb
  case submitPause o => exact submitBody_tableMove .pause o hb
  case submitFiller o => cases hb; exact .inl rfl
  case rxData o => cases hb; exact .inl (rxDataBody_txState ..)
  case rxPause o =>
    cases hb
    refine (rxPauseBody_txState _ s).imp_right fun ⟨hs, ht⟩ => ?_
    rw [hs, ht]
    exact .pauseReceived o
  case rxFiller o => cases hb; exact .inl rfl
  case txEnd =>
    obtain ⟨f, hx, -, rfl⟩ := txEndBody_ok hb
    rw [← State.disarm_txState s .txEnd, hx]
    rcases onTransmissionEnd_txState f (s.disarm .txEnd) with ht | ht <;> rw [ht]
    · exact .inr .sentToGap
    · exact .inr .sentToPause
  case ifgEnd =>
    obtain ⟨hx, hb⟩ := ifgEndBody_ok hb
    rw [← State.disarm_txState s .ifgEnd, hx]
    rcases beginSendFrames_txState (by rw [hx]; exact nofun) hb with ht | ht <;> rw [ht]
    · exact .inr .gapToIdle
    · exact .inr .gapToNext
  case pauseEnd =>
    obtain ⟨hx, hb⟩ := pauseEndBody_ok hb
    rw [← State.disarm_txState s .pauseEnd, hx]
    rcases beginSendFrames_txState (by rw [hx]; exact nofun) hb with ht | ht <;> rw [ht]
    · exact .inr .pauseToIdle
    · exact .inr .pauseToNext
  case setAdmin d => exact .inl (setAdminBody_txState h hb)
  case shutdown => exact absurd rfl h3
  case setup => exact absurd rfl h1
  case reset => exact absurd rfl h2

/-- A move of the table is one of its rows, as the statement spells them. -/
theorem TableMove.row {i : Instr} {x y : TxState} (h : TableMove i x y) :
    (x = .idle ∧ y = .transmitting ∧ ∃ k o, i = submitInstr k o) ∨
    (x = .idle ∧ y = .paused ∧ ∃ o, i = .rxPause o) ∨
    (x = .transmitting ∧ (y = .waitIfg ∨ y = .paused) ∧ i = .txEnd) ∨
    (x = .waitIfg ∧ (y = .idle ∨ y = .transmitting) ∧ i = .ifgEnd) ∨
    (x = .paused ∧ (y = .idle ∨ y = .transmitting) ∧ i = .pauseEnd) := by
  cases h with
  | submit k o => exact .inl ⟨rfl, rfl, k, o, rfl⟩
  | pauseReceived o => exact .inr (.inl ⟨rfl, rfl, o, rfl⟩)
  | sentToGap | sentToPause | gapToIdle | gapToNext | pauseToIdle | pauseToNext => simp

/-- Settles O58: a refusal moves nothing, a halt leaves RUN, and a rule's move is a row of the table. -/
theorem protocolStateFollowsTheTable : Obligations.ProtocolStateFollowsTheTable := by
  intro i s t hinv hs he ht hne
  rcases exec_cases i s with ⟨-, e⟩ | ⟨v, hacc, hb, e⟩ | ⟨code, info, -, -, e⟩ <;> rw [e] at he <;> cases he
  · exact absurd rfl hne
  · have hphase := (bodyOf_phase hb).symm.trans ht
    have h1 : i ≠ .setup := by
      rintro rfl
      exact absurd ((phase_of_accepted_setup hacc).symm.trans hs) nofun
    have hmove := bodyOf_tableMove (s := s.arrive) hinv.idleEmpty hb h1 (by rintro rfl; cases hphase)
      (by rintro rfl; cases hphase)
    exact (hmove.resolve_left hne).row
  · cases ht

end Sys2Proof.Machine
end

section
/-!
## The round trip of one frame (R132)

Three steps, each with one candidate: the offered frame, the end of its transmission, the end of the gap.
-/

namespace Sys2Proof.Machine

/-- Timer `T`, armed for `te`, is all a step can take: in RUN, nothing offered, no other timer armed. -/
structure LoneTimer (T : Timer) (te : Time) (s : State) : Prop where
  phase : s.phase = .run
  inbox : s.inbox = []
  armed : s.timerAt T = some te
  others : ∀ T', T' ≠ T → s.timerAt T' = none
  inOrder : s.now ≤ te

/-- The step fires that timer. -/
theorem LoneTimer.step_eq {T : Timer} {te : Time} {s : State} (h : LoneTimer T te s) :
    step s = exec T.event (firingAt s te) := by
  have hfirst : TimerFirst s T te := by
    refine ⟨h.phase, h.armed, fun T' te' hne hT => ?_, by simp [h.inbox]⟩
    rw [h.others T' hne] at hT
    cases hT
  rw [step, fetch_timerFirst hfirst]

theorem LoneTimer.due {T : Timer} {te : Time} {s : State} (h : LoneTimer T te s) : Due T (firingAt s te) :=
  ⟨h.phase, rfl, (timerAt_congr rfl rfl rfl T).trans h.armed, h.inOrder⟩

/-- The one frame of a block configured as `c` is on the wire until `te`; nothing waits and no pause is latched. -/
structure LoneSending (c : CfgRegs) (te : Time) (s : State) : Prop where
  timer : LoneTimer .txEnd te s
  txState : s.txState = .transmitting
  slot : s.slot ≠ none
  queue : s.queue = []
  pendingPause : s.pendingPause = 0
  cfg : s.cfg = c

/-- The gap after that frame lasts until `te`. -/
structure LoneGap (te : Time) (s : State) : Prop where
  timer : LoneTimer .ifgEnd te s
  txState : s.txState = .waitIfg
  slot : s.slot = none
  queue : s.queue = []

/-- The offered frame goes out at its stamp, padded, with the overhead in its wire length (R103, R123, R124). -/
theorem step_submit_loneSending {s : State} {a : Arrival} {o : SubmitOperands} (hq : Quiet s) (hinv : RunInv s)
    (hin : s.inbox = [a]) (hd : decode a.word = .ok (.submitData o)) (hnow : s.now ≤ a.stamp)
    (hc : s.connected = true) (hen : s.disabled = false) (hp : s.pendingPause = 0)
    (hm : s.cfg.queueMode = .internal) (hother : o.dst ≠ s.address) (hmax : o.len ≤ s.cfg.maxFrameBytes) :
    let n := max o.len s.cfg.minFrameBytes
    ∃ t d, step s = .next t ∧ t.out = s.out ++ [⟨a.stamp, .tx d⟩] ∧ d.len.toNat = n ∧
      d.wireLen.toNat = n + s.overheadBytes ∧ t.now = a.stamp ∧
      LoneSending s.cfg (a.stamp + (((n + s.overheadBytes) * 8 : Nat) : Rat) / (s.cfg.lineRate : Rat)) t := by
  intro n
  obtain ⟨-, -, hrate, hfits, hminmax, hlimit⟩ := validate_none hinv.legal
  have hfirst : HeadFirst s a [] := by
    refine ⟨hin, fun _ T te hT => ?_⟩
    rw [hinv.unarmed (by rw [hq.txState]; exact T.runsIn_ne_idle.symm)] at hT
    cases hT
  have hmod : o.len % 65536 = o.len := Nat.mod_eq_of_lt (by omega)
  have hlen : (readyFrame .data o (handling s a [])).len.toNat = n := by
    rw [readyFrame_len, hmod]
    rfl
  have hwire : (BitVec.ofNat 16 ((readyFrame .data o (handling s a [])).len.toNat + s.overheadBytes)).toNat =
      n + s.overheadBytes := by
    rw [hlen, BitVec.toNat_ofNat]
    omega
  have hexec := submitWhenIdleTransmitsAtOnce .data o (handling s a []) nofun hq.phase hnow hother (hmod.le.trans hmax)
    hc hen hq.txState hq.slot hq.queue (fun _ => Nat.one_le_iff_ne_zero.2 (hlimit hm)) (Nat.one_le_iff_ne_zero.2 hrate)
  refine ⟨_, _, (stepHandlesTheOfferedEvent s a [] _ hfirst hd).trans hexec, rfl, hlen, hwire, rfl, ?_⟩
  exact
    { timer :=
        { phase := hq.phase
          inbox := rfl
          armed := by simp only [State.timerAt, handling, Arrival.delivery] at hwire ⊢; rw [hwire]
          others := fun T hne => by
            cases T with
            | txEnd => exact absurd rfl hne
            | ifgEnd => exact hq.ifgEndAt
            | pauseEnd => exact hq.pauseEndAt
          inOrder := le_add_of_nonneg_right (by positivity) }
      txState := rfl
      slot := nofun
      queue := hq.queue
      pendingPause := hp
      cfg := rfl }

/-- With no pause latched the end of the transmission begins the gap (R127, R129). -/
theorem LoneSending.step_gap {c : CfgRegs} {te : Time} {s : State} (h : LoneSending c te s) (hrate : 1 ≤ c.lineRate)
    (hm : c.queueMode = .internal) :
    ∃ t, step s = .next t ∧ t.out = s.out ∧ t.now = te ∧
      LoneGap (te + (c.interFrameGapBits : Rat) / (c.lineRate : Rat)) t := by
  obtain ⟨f, hs⟩ := Option.ne_none_iff_exists'.1 h.slot
  obtain rfl := h.cfg
  have hexec := transmissionEndFinalisesTheFrame (firingAt s te) f h.timer.due h.txState hs hrate
  have hp : ¬ 1 ≤ (firingAt s te).pendingPause.toNat := by
    rw [show (firingAt s te).pendingPause = 0 from h.pendingPause]
    decide
  dsimp only at hexec
  rw [if_neg hp] at hexec
  refine ⟨_, h.timer.step_eq.trans hexec, ?_, rfl, ?_⟩
  · simp [firingAt, hm]
  · exact
      { timer :=
          { phase := h.timer.phase
            inbox := h.timer.inbox
            armed := rfl
            others := fun T hne => by
              cases T with
              | txEnd => rfl
              | ifgEnd => exact absurd rfl hne
              | pauseEnd => exact h.timer.others .pauseEnd nofun
            inOrder := le_add_of_nonneg_right (by positivity) }
        txState := rfl
        slot := by simp [firingAt, h.queue]
        queue := by simp [firingAt, h.queue] }

/-- With nothing waiting the end of the gap leaves the block quiet (R121, R128). -/
theorem LoneGap.step_quiet {te : Time} {s : State} (h : LoneGap te s) :
    ∃ t, step s = .next t ∧ t.out = s.out ∧ t.now = te ∧ Quiet t := by
  have hends : WaitEnds .ifgEnd (firingAt s te) ((firingAt s te).arrive.disarm .ifgEnd) :=
    ⟨nofun, h.timer.due, h.txState, rfl⟩
  exact ⟨_, h.timer.step_eq.trans (hends.exec_empty h.slot), rfl, rfl, h.timer.phase, rfl,
    h.timer.others .txEnd nofun, rfl, h.timer.others .pauseEnd nofun, h.slot, h.queue⟩

/-- Settles O39: the three steps in turn. -/
theorem roundTripOfOneFrame : Obligations.RoundTripOfOneFrame := by
  intro s a o hq hinv hin hd hnow hc hen hp hm hother hmax
  obtain ⟨s1, d, h1, hout1, hlen, hwire, hnow1, hsending⟩ :=
    step_submit_loneSending hq hinv hin hd hnow hc hen hp hm hother hmax
  obtain ⟨s2, h2, hout2, hnow2, hgap⟩ := hsending.step_gap (Nat.one_le_iff_ne_zero.2 hinv.lineRate_ne) hm
  obtain ⟨s3, h3, hout3, hnow3, hquiet⟩ := hgap.step_quiet
  exact ⟨s1, s2, s3, d, h1, h2, h3, hout1, hwire, hlen, hsending.txState, hnow1, hgap.txState, hnow2, hquiet.txState,
    hnow3, hout3.trans hout2, hquiet⟩

end Sys2Proof.Machine
end

section
/-!
## What RX leaves unchanged (R150, R159)

RX raises no fatal error. Of the transmit side its rule writes at most the protocol state, the pause timer and the
latch, and those only where a PAUSE frame is obeyed.
-/

namespace Sys2Proof.Machine

/-- The counters of the receive side, which RX may add to (R40, R150). -/
def receiveCtrs : List Ctr :=
  [.rxOkFrames, .rxOkBytes, .rxPause, .rxPauseUnits, .dropRxDisconn, .dropRxDisabled, .dropBiterr]

/-- The counters of the transmit side (R40). -/
def transmitCtrs : List Ctr :=
  [.fromUpper, .txFrames, .txBytes, .txPause, .txPauseUnits, .dropUpDisconn, .dropUpDisabled, .dropQfull]

theorem not_mem_receiveCtrs : ∀ c ∈ transmitCtrs, c ∉ receiveCtrs := by decide

/-- What no part of RX's rule changes: the frames held, the pull, the timers of a transmission and of a gap, the finish
time, and the counters of the transmit side. -/
structure ReceiveOnly (s t : State) : Prop where
  slot : t.slot = s.slot
  queue : t.queue = s.queue
  pullPending : t.pullPending = s.pullPending
  txEndAt : t.txEndAt = s.txEndAt
  ifgEndAt : t.ifgEndAt = s.ifgEndAt
  lastTxFinishTime : t.lastTxFinishTime = s.lastTxFinishTime
  counters : ∀ c, c ∉ receiveCtrs → t.counters.get c = s.counters.get c

/-- No pause was obeyed between `s` and `t`. -/
structure PauseUnmoved (s t : State) : Prop where
  txState : t.txState = s.txState
  pauseEndAt : t.pauseEndAt = s.pauseEndAt
  pendingPause : t.pendingPause = s.pendingPause

namespace ReceiveOnly

theorem refl (s : State) : ReceiveOnly s s := ⟨rfl, rfl, rfl, rfl, rfl, rfl, fun _ _ => rfl⟩

theorem trans {s t u : State} (h : ReceiveOnly s t) (k : ReceiveOnly t u) : ReceiveOnly s u where
  slot := k.slot.trans h.slot
  queue := k.queue.trans h.queue
  pullPending := k.pullPending.trans h.pullPending
  txEndAt := k.txEndAt.trans h.txEndAt
  ifgEndAt := k.ifgEndAt.trans h.ifgEndAt
  lastTxFinishTime := k.lastTxFinishTime.trans h.lastTxFinishTime
  counters c hc := (k.counters c hc).trans (h.counters c hc)

end ReceiveOnly

theorem addTo_receiveOnly (s : State) {k : Ctr} (n : Nat) (hk : k ∈ receiveCtrs) : ReceiveOnly s (s.addTo k n) where
  slot := rfl
  queue := rfl
  pullPending := rfl
  txEndAt := rfl
  ifgEndAt := rfl
  lastTxFinishTime := rfl
  counters c hc := s.counters.get_add_other k c n fun h => hc (h ▸ hk)

/-- The delivery counts the frame and its bytes, and writes the receive time and the trace (R157). -/
theorem deliverData_receiveOnly (f : Frame) (s : State) : ReceiveOnly s (deliverData f s) := by
  have hcount : ReceiveOnly s ((s.addTo .rxOkFrames 1).addTo .rxOkBytes (strippedFrame s f).len.toNat) :=
    (addTo_receiveOnly s 1 (by decide)).trans (addTo_receiveOnly _ _ (by decide))
  rw [deliverData_eq]
  exact hcount.trans ⟨rfl, rfl, rfl, rfl, rfl, rfl, fun _ _ => rfl⟩

theorem rxDataBody_receiveOnly (f : Frame) (s : State) : ReceiveOnly s (rxDataBody f s) := by
  rcases rxDataBody_cases f s with ⟨-, e⟩ | ⟨-, -, -, e⟩ | ⟨-, -, -, e⟩ | ⟨-, -, -, e⟩ | ⟨-, -, -, e⟩ <;> rw [e]
  · exact addTo_receiveOnly s 1 (by decide)
  · exact addTo_receiveOnly s 1 (by decide)
  · exact addTo_receiveOnly s 1 (by decide)
  · exact .refl s
  · exact deliverData_receiveOnly f s

theorem processPauseCommand_receiveOnly (u : Half) (s : State) : ReceiveOnly s (processPauseCommand u s) := by
  rw [processPauseCommand_eq]
  split
  · split <;> exact ⟨rfl, rfl, rfl, rfl, rfl, rfl, fun _ _ => rfl⟩
  all_goals exact ⟨rfl, rfl, rfl, rfl, rfl, rfl, fun _ _ => rfl⟩

theorem rxPauseBody_receiveOnly (f : Frame) (s : State) : ReceiveOnly s (rxPauseBody f s) := by
  rcases rxPauseBody_cases f s with ⟨-, e⟩ | ⟨-, -, e⟩ | ⟨-, -, -, e⟩ <;> rw [e]
  · exact addTo_receiveOnly s 1 (by decide)
  · exact .refl s
  · exact ((addTo_receiveOnly s 1 (by decide)).trans (addTo_receiveOnly _ _ (by decide))).trans
      (processPauseCommand_receiveOnly ..)

theorem bodyOf_rx_receiveOnly {k : Kind} {o : RxOperands} {s t : State} (h : bodyOf (rxInstr k o) s = .ok t) :
    ReceiveOnly s t := by
  cases k <;> cases h
  case data => exact rxDataBody_receiveOnly ..
  case pause => exact rxPauseBody_receiveOnly ..
  case filler => exact .refl s

/-! ### A pause is obeyed only where its frame passes -/

theorem rxDataBody_pauseUnmoved (f : Frame) (s : State) : PauseUnmoved s (rxDataBody f s) := by
  rcases rxDataBody_cases f s with ⟨-, e⟩ | ⟨-, -, -, e⟩ | ⟨-, -, -, e⟩ | ⟨-, -, -, e⟩ | ⟨-, -, -, e⟩ <;> rw [e]
  · exact ⟨rfl, rfl, rfl⟩
  · exact ⟨rfl, rfl, rfl⟩
  · exact ⟨rfl, rfl, rfl⟩
  · exact ⟨rfl, rfl, rfl⟩
  · rw [deliverData_eq]; exact ⟨rfl, rfl, rfl⟩

/-- A PAUSE frame with an error, at the closed gate, or for another station is dropped (R152 to R154). -/
theorem rxPauseBody_dropped {f : Frame} {s : State}
    (h : f.err = true ∨ gateClosed s = true ∨ addressedToUs s f.dst = false) : PauseUnmoved s (rxPauseBody f s) := by
  rcases rxPauseBody_cases f s with ⟨-, e⟩ | ⟨-, -, e⟩ | ⟨herr, hgate, hdst, -⟩
  · rw [e]; exact ⟨rfl, rfl, rfl⟩
  · rw [e]; exact ⟨rfl, rfl, rfl⟩
  · simp [herr, hgate, hdst] at h

theorem bodyOf_rx_pauseUnmoved {k : Kind} {o : RxOperands} {s t : State}
    (hdrop : k = .pause → o.err = true ∨ s.connected = false ∨ s.disabled = true ∨ addressedToUs s o.dst = false)
    (h : bodyOf (rxInstr k o) s = .ok t) : PauseUnmoved s t := by
  cases k <;> cases h
  case data => exact rxDataBody_pauseUnmoved ..
  case pause =>
    have hgate := hdrop rfl
    rw [← or_assoc (a := s.connected = false), ← gateClosed_iff] at hgate
    exact rxPauseBody_dropped hgate
  case filler => exact ⟨rfl, rfl, rfl⟩

/-! ### The event -/

/-- RX is refused, or its rule reaches `t`: it never halts (R150). -/
theorem exec_rx_cases {k : Kind} {o : RxOperands} {s t : State} (h : exec (rxInstr k o) s = .next t) :
    t = s.refuse ∨ bodyOf (rxInstr k o) s.arrive = .ok t := by
  rcases exec_cases (rxInstr k o) s with ⟨-, e⟩ | ⟨v, -, hb, e⟩ | ⟨code, info, -, hb, -⟩
  · rw [e] at h; cases h; exact .inl rfl
  · rw [e] at h; cases h; exact .inr hb
  · cases k <;> cases hb

/-- Settles O47: the frames held and the two other timers stay in every RX, the rest where no pause is obeyed. -/
theorem receptionLeavesTransmitState : Obligations.ReceptionLeavesTransmitState := by
  intro k o s t hdrop he
  rcases exec_rx_cases he with rfl | hb
  · exact ⟨rfl, rfl, rfl, rfl, rfl, rfl, rfl⟩
  · have hr := bodyOf_rx_receiveOnly hb
    have hp := bodyOf_rx_pauseUnmoved (s := s.arrive) hdrop hb
    exact ⟨hp.txState, hr.txEndAt, hr.ifgEndAt, hp.pauseEndAt, hr.slot, hr.queue, hp.pendingPause⟩

/-- Only a DATA frame is delivered (R156, R157). -/
theorem rxPauseBody_undelivered (f : Frame) (s : State) :
    (rxPauseBody f s).out = s.out ∧ (rxPauseBody f s).rxOkTime = s.rxOkTime := by
  rcases rxPauseBody_cases f s with ⟨-, e⟩ | ⟨-, -, e⟩ | ⟨-, -, -, e⟩ <;> rw [e]
  · exact ⟨rfl, rfl⟩
  · exact ⟨rfl, rfl⟩
  · rw [processPauseCommand_eq]
    split
    · split <;> exact ⟨rfl, rfl⟩
    all_goals exact ⟨rfl, rfl⟩

theorem bodyOf_rx_undelivered {k : Kind} {o : RxOperands} {s t : State} (hk : k ≠ .data)
    (h : bodyOf (rxInstr k o) s = .ok t) : t.out = s.out ∧ t.rxOkTime = s.rxOkTime := by
  cases k <;> cases h
  case data => exact absurd rfl hk
  case pause => exact rxPauseBody_undelivered ..
  case filler => exact ⟨rfl, rfl⟩

/-- Settles O48: a refusal writes only the mark; the rule keeps the launch, the model's own fields, and all but the
receive side. -/
theorem receptionLeavesTheRest : Obligations.ReceptionLeavesTheRest := by
  intro k o s t he
  rcases exec_rx_cases he with rfl | hb
  · simp
  · have hr := bodyOf_rx_receiveOnly hb
    have hl := bodyOf_sameLaunch hb (by cases k <;> simp [rxInstr])
    have hx := bodyOf_extends hb
    exact ⟨hl.phase, hr.slot, hr.queue, hl.connected, hl.disabled, hr.pullPending, hl.address, hl.tSetup, hr.txEndAt,
      hr.ifgEndAt, hr.lastTxFinishTime, hl.fault, hl.cfg, hx.overheadBytes, hx.inbox, hx.cur, hx.ties, hx.tieDraws,
      fun hk => bodyOf_rx_undelivered (s := s.arrive) hk hb, fun c hc => hr.counters c (not_mem_receiveCtrs c hc)⟩

end Sys2Proof.Machine
end

section
/-!
## While PAUSED (R164)

The transition table leaves PAUSED by the pause timer only, and a launch ends in TRANSMITTING: an event that stays
PAUSED launches nothing.
-/

namespace Sys2Proof.Machine

theorem Launches.txState {s t : State} (h : Launches s t) : t.txState = .transmitting := by
  obtain ⟨f, v, -, -, -, -, -, -, -, rfl⟩ := h
  rfl

/-- The only row out of PAUSED is that of the pause timer (R122, R130). -/
theorem TableMove.eq_pauseEnd {i : Instr} {x y : TxState} (h : TableMove i x y) (hx : x = .paused) : i = .pauseEnd := by
  cases h with
  | pauseToIdle | pauseToNext => rfl
  | submit | pauseReceived | sentToGap | sentToPause | gapToIdle | gapToNext => cases hx

/-- Within RUN only the pause timer ends a pause (R122, R130). -/
theorem bodyOf_stays_paused {i : Instr} {s t : State} (hx : s.txState = .paused) (hi : i ≠ .pauseEnd)
    (hsetup : i ≠ .setup) (hb : bodyOf i s = .ok t) (ht : t.phase = .run) : t.txState = .paused := by
  have hphase := (bodyOf_phase hb).symm.trans ht
  rcases bodyOf_tableMove (fun hidle => by simp [hx] at hidle) hb hsetup (by rintro rfl; cases hphase)
    (by rintro rfl; cases hphase) with hsame | hmove
  · exact hsame.trans hx
  · exact absurd (hmove.eq_pauseEnd hx) hi

/-- Settles O59: a refusal moves nothing, a halt leaves RUN silently, and a rule that launched a frame would still be in
RUN, so PAUSED. -/
theorem pauseBlocksTransmission : Obligations.PauseBlocksTransmission := by
  intro i s t new hs hx hi he hout
  suffices h : Silent s t ∧ (t.phase = .run → t.txState = .paused) from ⟨h.1.isTx_false hout, h.2⟩
  rcases exec_cases i s with ⟨-, e⟩ | ⟨v, hacc, hb, e⟩ | ⟨code, info, -, -, e⟩ <;> rw [e] at he <;> cases he
  · exact ⟨.of_out_eq rfl, fun _ => hx⟩
  · have hsetup : i ≠ .setup := by
      rintro rfl
      exact absurd ((phase_of_accepted_setup hacc).symm.trans hs) nofun
    have hpaused : t.phase = .run → t.txState = .paused := bodyOf_stays_paused (s := s.arrive) hx hi hsetup hb
    refine ⟨(bodyOf_silent_or_launches hb).resolve_right fun ⟨hlaunch, _, _⟩ => ?_, hpaused⟩
    exact absurd (hlaunch.txState.symm.trans (hpaused (hlaunch.phase.trans hs))) nofun
  · exact ⟨halt_silent .., nofun⟩

end Sys2Proof.Machine
end

section
/-!
## RX case by case (R151 to R163)

The rule runs on the state whose time has moved to the event's stamp; each drop is one lemma about the rule's body.
-/

namespace Sys2Proof.Machine

/-- RX of a DATA frame in RUN, not in the past and no shorter than the overhead, is accepted (R150, R213). -/
theorem exec_rxData {o : RxOperands} {s : State} (hrun : s.phase = .run) (hnow : s.now ≤ s.cur.stamp)
    (hover : s.overheadBytes ≤ o.wireLen) (hlen : o.wireLen < 65536) :
    exec (.rxData o) s = .next (rxDataBody (frameOfRx .data o s.cur.payload) s.arrive) :=
  exec_accepted (i := .rxData o) (by simp [RefusedEvent, hrun, hnow, Nat.mod_eq_of_lt hlen, hover])

/-- RX of a PAUSE frame in RUN, not in the past, is accepted (R150, R213). -/
theorem exec_rxPause {o : RxOperands} {s : State} (hrun : s.phase = .run) (hnow : s.now ≤ s.cur.stamp) :
    exec (.rxPause o) s = .next (rxPauseBody (frameOfRx .pause o s.cur.payload) s.arrive) :=
  exec_accepted (i := .rxPause o) (by simp [RefusedEvent, hrun, hnow])

/-- Settles O40: an accepted FILLER frame only moves time. -/
theorem fillerIsDiscarded : Obligations.FillerIsDiscarded := fun o s hrun hnow =>
  exec_accepted (i := .rxFiller o) (by simp [RefusedEvent, hrun, hnow])

/-! ### The drops -/

theorem rxDataBody_bitError {f : Frame} {s : State} (h : f.err = true) : rxDataBody f s = s.addTo .dropBiterr 1 := by
  simp [rxDataBody, h]

theorem rxPauseBody_bitError {f : Frame} {s : State} (h : f.err = true) : rxPauseBody f s = s.addTo .dropBiterr 1 := by
  simp [rxPauseBody, h]

/-- Settles O41: the error check comes first. -/
theorem bitErrorIsCountedOnce : Obligations.BitErrorIsCountedOnce := by
  intro o s hrun hnow herr
  refine ⟨fun hover hlen => ?_, ?_⟩
  · rw [exec_rxData hrun hnow hover hlen, rxDataBody_bitError herr]
    rfl
  · rw [exec_rxPause hrun hnow, rxPauseBody_bitError herr]
    rfl

theorem rxDataBody_gate {f : Frame} {s : State} (herr : f.err = false) (hg : gateClosed s = true) :
    rxDataBody f s = s.addTo (if s.connected then .dropRxDisabled else .dropRxDisconn) 1 := by
  cases hc : s.connected <;> simp [rxDataBody, herr, hg, hc]

theorem rxPauseBody_gate {f : Frame} {s : State} (herr : f.err = false) (hg : gateClosed s = true) :
    rxPauseBody f s = s := by
  simp [rxPauseBody, herr, hg]

/-- Settles O42: the gate check comes next, and only a DATA frame is counted there. -/
theorem receptionAtTheClosedGate : Obligations.ReceptionAtTheClosedGate := by
  intro o s hrun hnow herr hgate
  have hg : gateClosed s.arrive = true := (gateClosed_iff _).2 hgate
  refine ⟨fun hover hlen => ?_, ?_⟩
  · rw [exec_rxData hrun hnow hover hlen, rxDataBody_gate herr hg]
    rfl
  · rw [exec_rxPause hrun hnow, rxPauseBody_gate herr hg]
    rfl

theorem rxDataBody_filtered {f : Frame} {s : State} (herr : f.err = false) (hg : gateClosed s = false)
    (hf : addressedToUs s f.dst = false) : rxDataBody f s = s := by
  simp [rxDataBody, herr, hg, hf]

theorem rxPauseBody_filtered {f : Frame} {s : State} (herr : f.err = false) (hg : gateClosed s = false)
    (hf : addressedToUs s f.dst = false) : rxPauseBody f s = s := by
  simp [rxPauseBody, herr, hg, hf]

/-! ### The address filter (R83, R154) -/

theorem eq_broadcast_iff (a : Mac) : a = broadcast ↔ a.toNat = 2 ^ 48 - 1 := BitVec.toNat_inj.symm

theorem isGroup_iff (a : Mac) : isGroup a = true ↔ a.toNat / 2 ^ 40 % 2 = 1 := by
  rw [isGroup, BitVec.getLsbD, Nat.testBit_eq_decide_div_mod_eq, decide_eq_true_eq]

theorem addressedToUs_iff (s : State) (a : Mac) :
    addressedToUs s a = true ↔ a = s.address ∨ a.toNat = 2 ^ 48 - 1 ∨ a.toNat / 2 ^ 40 % 2 = 1 := by
  rw [addressedToUs, Bool.or_eq_true, Bool.or_eq_true, decide_eq_true_eq, decide_eq_true_eq, eq_broadcast_iff,
    isGroup_iff, or_assoc]

/-- Settles O43: the filter in numbers, and the silent drop of what it stops. -/
theorem addressFilter : Obligations.AddressFilter := by
  intro s a
  refine ⟨addressedToUs_iff s a, ?_⟩
  rintro o rfl hf hrun hnow herr hc hd
  have hg : gateClosed s.arrive = false := (gateOpen_iff _).2 ⟨hc, hd⟩
  refine ⟨fun hover hlen => ?_, ?_⟩
  · rw [exec_rxData hrun hnow hover hlen,
      rxDataBody_filtered (f := frameOfRx .data o s.cur.payload) (s := s.arrive) herr hg hf]
    rfl
  · rw [exec_rxPause hrun hnow,
      rxPauseBody_filtered (f := frameOfRx .pause o s.cur.payload) (s := s.arrive) herr hg hf]
    rfl

/-! ### The frames that pass -/

theorem rxDataBody_passes {f : Frame} {s : State} (herr : f.err = false) (hg : gateClosed s = false)
    (hf : addressedToUs s f.dst = true) : rxDataBody f s = deliverData f s := by
  simp [rxDataBody, herr, hg, hf]

theorem rxPauseBody_passes {f : Frame} {s : State} (herr : f.err = false) (hg : gateClosed s = false)
    (hf : addressedToUs s f.dst = true) :
    rxPauseBody f s =
      processPauseCommand f.pauseUnits ((s.addTo .rxPause 1).addTo .rxPauseUnits f.pauseUnits.toNat) := by
  simp [rxPauseBody, herr, hg, hf]

/-- A number below 65536 is what its 16-bit field holds (R84). -/
theorem half_toNat {n : Nat} (h : n < 65536) : (BitVec.ofNat 16 n).toNat = n :=
  fitsHalf_toNat_ofNat (decide_eq_true h)

/-- Settles O44: the delivery, its lengths and its wire time in numbers. -/
theorem dataIsDelivered : Obligations.DataIsDelivered := by
  intro o s hrun hnow herr hc hd hf hover hlen hrate n
  have hwire : (frameOfRx .data o s.cur.payload).wireLen.toNat = o.wireLen := half_toNat hlen
  have hstripped : strippedFrame s.arrive (frameOfRx .data o s.cur.payload) =
      { kind := .data, dst := o.dst, src := o.src, srcValid := o.srcValid, len := BitVec.ofNat 16 n,
        wireLen := BitVec.ofNat 16 n, pauseUnits := BitVec.ofNat 16 o.pauseUnits, err := false,
        payload := s.cur.payload } := by
    rw [strippedFrame, hwire]
    rfl
  have hg : gateClosed s.arrive = false := (gateOpen_iff _).2 ⟨hc, hd⟩
  rw [exec_rxData hrun hnow hover hlen,
    rxDataBody_passes (f := frameOfRx .data o s.cur.payload) (s := s.arrive) herr hg hf, deliverData_eq,
    hstripped, half_toNat (by omega), wireTime_eq_div (c := s.arrive.cfg) _ hrate, hwire]
  rfl

/-- The pause command by the protocol state, its length in bits over bits per second (R160 to R163). -/
theorem processPauseCommand_eq_div {s : State} {n : Nat} (hn : n < 65536) (h : 1 ≤ s.cfg.lineRate) :
    let till := s.now + ((n * s.cfg.pauseUnitBits : Nat) : Rat) / (s.cfg.lineRate : Rat)
    processPauseCommand (BitVec.ofNat 16 n) s =
      match s.txState with
      | .idle => if n = 0 then s else { s with txState := .paused, pauseEndAt := some till }
      | .paused => { s with pauseEndAt := some till }
      | .transmitting => { s with pendingPause := BitVec.ofNat 16 n }
      | .waitIfg => { s with pendingPause := BitVec.ofNat 16 n } := by
  intro till
  have hzero : BitVec.ofNat 16 n = 0 ↔ n = 0 := by
    rw [← BitVec.toNat_inj, half_toNat hn]
    rfl
  have htill : s.now + s.cfg.pauseTime (BitVec.ofNat 16 n) = till := by rw [pauseTime_eq_div _ h, half_toNat hn]
  rw [processPauseCommand_eq, htill]
  simp only [hzero]
  cases s.txState <;> rfl

/-- Settles O46: the frame and its units are counted, then the pause command is obeyed. -/
theorem pauseIsObeyed : Obligations.PauseIsObeyed := by
  intro o s hrun hnow herr hc hd hf hunits hrate u till
  have hu : (s.arrive.addTo .rxPause 1).addTo .rxPauseUnits (BitVec.ofNat 16 o.pauseUnits).toNat = u := by
    rw [half_toNat hunits]
    rfl
  have hg : gateClosed s.arrive = false := (gateOpen_iff _).2 ⟨hc, hd⟩
  have hcommand : rxPauseBody (frameOfRx .pause o s.cur.payload) s.arrive =
      processPauseCommand (BitVec.ofNat 16 o.pauseUnits) u :=
    (rxPauseBody_passes (f := frameOfRx .pause o s.cur.payload) herr hg hf).trans (congrArg _ hu)
  rw [exec_rxPause hrun hnow, hcommand]
  exact congrArg _ (processPauseCommand_eq_div (s := u) hunits hrate)

end Sys2Proof.Machine
end

section
/-!
## The host's events (R180 to R193)

Each event's rule is said once as one explicit state, or as the fatal error it raises; the claims are those states read
off.
-/

namespace Sys2Proof.Machine

/-! ### What is taken outside RUN (R181, R191, R204, R220) -/

/-- Outside RUN every event is refused but RESET and, in UNINIT, SETUP. -/
theorem exec_outside_run {i : Instr} {s : State} (hrun : s.phase ≠ .run) (hreset : i ≠ .reset)
    (hsetup : i = .setup → s.phase ≠ .uninit) : exec i s = .next s.refuse := by
  refine exec_refused (by_contra fun hacc => ?_)
  by_cases hi : i = .setup
  · exact hsetup hi (phase_of_accepted_setup (hi ▸ hacc))
  · exact hrun (phase_of_accepted hacc hi hreset)

/-- Outside RUN no timer fires, so with nothing offered the block waits. -/
theorem step_outside_run {s : State} (hrun : s.phase ≠ .run) (hin : s.inbox = []) : step s = .next s := by
  rcases step_cases s with ⟨-, e⟩ | ⟨a, rest, -, -, hi, -⟩ | ⟨T, -, -, -, hr, -⟩
  · exact e
  · exact absurd (hin.symm.trans hi) nofun
  · exact absurd hr hrun

/-! ### RESET and SHUTDOWN: an abort, then the values written (R187, R190) -/

/-- A record emitted on a condition, as one update of the trace. -/
theorem ite_emit_eq (p : Prop) [Decidable p] (s : State) (e : OutEvent) :
    (if p then s.emit e else s) = { s with out := if p then s.out ++ [⟨s.now, e⟩] else s.out } := by
  split <;> rfl

/-- RESET with a stamp not in the past is accepted in every phase (R187, R188). -/
theorem exec_reset {s : State} (hnow : s.now ≤ s.cur.stamp) :
    exec .reset s = .next
      { s.arrive.afterReset with
        out := if s.phase = .run ∧ s.txState = .transmitting then s.out ++ [⟨s.cur.stamp, .txAbort⟩] else s.out } := by
  rw [exec_accepted (i := .reset) (not_lt.2 hnow), bodyOf, ite_emit_eq]
  rfl

/-- Settles O24: every conjunct is a field of the state RESET reaches. -/
theorem resetReturnsToPowerOn : Obligations.ResetReturnsToPowerOn := by
  intro s hnow
  refine ⟨_, exec_reset hnow, ?_⟩
  and_intros <;> rfl

/-- Settles O19: neither phase takes SETUP, and RESET leads to UNINIT, which takes SETUP and RESET only. -/
theorem onlyResetLeavesHaltedAndStopped : Obligations.OnlyResetLeavesHaltedAndStopped := by
  intro s hs
  have hrun : s.phase ≠ .run := by rcases hs with h | h <;> simp [h]
  have huninit : s.phase ≠ .uninit := by rcases hs with h | h <;> simp [h]
  refine ⟨fun i hi => exec_outside_run hrun hi fun _ => huninit, step_outside_run hrun,
    fun hnow => ⟨_, exec_reset hnow, rfl, rfl, fun r hr => ?_,
      fun i hreset hsetup => exec_outside_run nofun hreset fun h => absurd h hsetup⟩⟩
  simpa [hrun] using hr

/-- Settles O49: the rule of SHUTDOWN with its abort as one update of the trace. -/
theorem shutdownStopsTheEngine : Obligations.ShutdownStopsTheEngine := by
  intro s hrun hnow
  have hacc : ¬ RefusedEvent .shutdown s := not_or.2 ⟨not_not.2 hrun, not_lt.2 hnow⟩
  rw [exec_accepted hacc, bodyOf, shutdownBody, ite_emit_eq]
  rfl

/-! ### SETUP (R180 to R186) -/

/-- SETUP in UNINIT with a stamp not in the past is accepted, and its rule decides (R180, R181). -/
theorem exec_setup {s : State} (hphase : s.phase = .uninit) (hnow : s.now ≤ s.cur.stamp) :
    exec .setup s = .next (conclude s (setupBody s.arrive)) :=
  exec_accepted (i := .setup) (not_or.2 ⟨not_not.2 hphase, not_lt.2 hnow⟩)

/-- A record that fails a check halts the block, nothing loaded (R182, R205). -/
theorem exec_setup_illegal {s : State} {code : Fatal} (hphase : s.phase = .uninit) (hnow : s.now ≤ s.cur.stamp)
    (hv : validate s.overheadBytes s.cur.record = some code) :
    exec .setup s = .next (s.halt code (.record s.cur.record)) := by
  rw [exec_setup hphase hnow, setupBody_illegal (s := s.arrive) hv]
  rfl

theorem validate_halfDuplex {overhead : Nat} {c : CfgRegs} (h : c.duplexMode = false) :
    validate overhead c = some .cfgHalfDuplex := by
  simp [validate, h]

/-- Behind the duplex check every failure is the one code, so the order of the others cannot be told apart (R182). -/
theorem validate_fullDuplex {overhead : Nat} {c : CfgRegs} (h : c.duplexMode = true) :
    validate overhead c =
      if c.reservedBitSet = true ∨ c.lineRate = 0 ∨ 65535 < c.maxFrameBytes + overhead ∨
        c.maxFrameBytes < c.minFrameBytes ∨ (c.queueMode = .internal ∧ c.queueLimit = 0)
      then some .cfgInvalid else none := by
  simp only [validate, h, Bool.not_true, Bool.false_eq_true, if_false, ite_or]

/-- Settles O21: the loaded record in either queue mode. -/
theorem legalSetupStartsTheEngine : Obligations.LegalSetupStartsTheEngine := by
  intro s hphase hnow hlegal
  rw [exec_setup hphase hnow, setupBody_legal (s := s.arrive) hlegal, State.arrive_cur]
  cases hm : s.cur.record.queueMode <;> rfl

/-- Settles O22: the checks by their outcome, and the third clause by O21. -/
theorem setupChecksInOrder : Obligations.SetupChecksInOrder := by
  intro s hphase hnow c
  refine ⟨fun hd => ?_, fun hd hbad => ?_, fun hd hres hrate hmax hmin hlimit => ?_⟩
  · exact exec_setup_illegal hphase hnow (validate_halfDuplex hd)
  · exact exec_setup_illegal hphase hnow ((validate_fullDuplex hd).trans (if_pos hbad))
  · have hlegal : Legal s.overheadBytes c := by
      refine (validate_fullDuplex hd).trans (if_neg ?_)
      rintro (h | h | h | h | ⟨hm, h⟩)
      · exact absurd (hres.symm.trans h) nofun
      · omega
      · omega
      · omega
      · exact absurd (hlimit hm) (by omega)
    exact ⟨_, legalSetupStartsTheEngine s hphase hnow hlegal, rfl⟩

/-! ### SET_ADMIN (R193) -/

/-- With nothing held `refill` can only ask for a frame (R110). -/
theorem refill_of_nothing_held {s : State} (hs : s.slot = none) (hq : s.queue = []) :
    refill s =
      if s.cfg.queueMode = .external ∧ s.pullPending = false
      then { s with pullPending := true, out := s.out ++ [⟨s.now, .pull⟩] } else s := by
  split
  next h =>
    obtain ⟨hm, hp⟩ := h
    exact refill_external_pull hs hm hp
  next h =>
    cases hm : s.cfg.queueMode with
    | internal => exact refill_internal_empty hm hq
    | external => exact refill_external_pending hm (by simpa [hm] using h)

/-- An idle block with nothing staged has nothing to send (R120, R121). -/
theorem beginSendFrames_idle {s : State} (hx : s.txState = .idle) (hs : s.slot = none) : beginSendFrames s = .ok s := by
  rw [beginSendFrames_empty (by simp [hx]) hs, ← hx]

/-- Settles O50: the flag alone, or the re-enabling of an idle block, which holds nothing and so at most asks for a
frame (R44 item 3). -/
theorem setAdminWritesTheFlag : Obligations.SetAdminWritesTheFlag := by
  intro d s hrun hnow hempty
  have hacc : ¬ RefusedEvent (.setAdmin d) s := not_or.2 ⟨not_not.2 hrun, not_lt.2 hnow⟩
  rw [exec_accepted hacc, bodyOf]
  rcases setAdminBody_cases d s.arrive with ⟨hflag, e⟩ | ⟨hdis, rfl, hx, e⟩ <;> rw [e]
  · rw [if_neg fun ⟨hdis, hd, hx, _⟩ => hflag ⟨hdis, hd, hx⟩]
    rfl
  · obtain ⟨hs, hq⟩ := hempty hx
    set u : State := { s.arrive with disabled := false }
    have hidle : (refill u).txState = .idle := (refill_sameTimers u).txState.trans hx
    rw [beginSendFrames_idle hidle (refill_slot_none hs hq), conclude_ok, refill_of_nothing_held (s := u) hs hq]
    have hpull : (s.cfg.queueMode = .external ∧ s.pullPending = false) ↔
        (s.disabled = true ∧ false = false ∧ s.txState = .idle ∧ s.cfg.queueMode = .external ∧ s.pullPending = false) :=
      ⟨fun h => ⟨hdis, rfl, hx, h⟩, fun ⟨_, _, _, h⟩ => h⟩
    exact congrArg _ (if_congr hpull rfl rfl)

end Sys2Proof.Machine
end

section
/-!
## The fatal codes that can be raised (R201, R202)

A halt is a rule's body that raised a fatal error. SUBMIT and SETUP raise codes up to 6 only; a timer event raises none
in its own protocol state with its frame staged, which the invariant gives whenever the timer is armed.
-/

namespace Sys2Proof.Machine

/-! ### What each rule raises -/

/-- The controller's procedure raises no fatal error (R120, R121). -/
theorem beginSendFrames_ne_error (s : State) (e : Raised) : beginSendFrames s ≠ .error e := by
  rcases beginSendFrames_cases s with ⟨-, h⟩ | ⟨-, -, h⟩ | ⟨f, -, -, -, h⟩ | ⟨f, -, -, -, h⟩ <;> rw [h] <;> exact nofun

theorem startIfIdle_ne_error (s : State) (e : Raised) : startIfIdle s ≠ .error e := by
  by_cases hx : s.txState = .idle
  · rw [startIfIdle_idle hx]
    exact beginSendFrames_ne_error s e
  · rw [startIfIdle_busy hx]
    exact nofun

theorem setAdminBody_ne_error (d : Bool) (s : State) (e : Raised) : setAdminBody d s ≠ .error e := by
  rcases setAdminBody_cases d s with ⟨-, h⟩ | ⟨-, -, -, h⟩ <;> rw [h]
  · exact nofun
  · exact beginSendFrames_ne_error _ e

/-- Admission raises QUEUE_OVERFLOW or EXT_SLOT_BUSY (R104, R105). -/
theorem admission_error {s : State} {g : Frame} {code : Fatal} {info : FaultInfo}
    (h : admission g s = .error (code, info)) : code = .queueOverflow ∨ code = .extSlotBusy := by
  cases hm : s.cfg.queueMode with
  | internal =>
    simp only [admission, hm, admitInternal] at h
    split at h
    · split at h <;> cases h
      exact .inl rfl
    · split at h <;> cases h
  | external =>
    by_cases hs : s.slot = none
    · rw [admit_external_staged hm hs] at h
      cases h
    · rw [admit_external_busy hm hs] at h
      cases h
      exact .inr rfl

/-- SUBMIT raises its own two codes or admission's (R101, R104, R105). -/
theorem submitBody_error_code_le {s : State} {f : Frame} {code : Fatal} {info : FaultInfo}
    (h : submitBody f s = .error (code, info)) : code.code.toNat ≤ 6 := by
  by_cases hd : f.dst = s.address
  · rw [submitBody_self hd] at h
    cases h
    decide
  rcases lt_or_ge s.cfg.maxFrameBytes f.len.toNat with hl | hl
  · rw [submitBody_oversize hd hl] at h
    cases h
    decide
  cases hg : gateClosed s with
  | true =>
    rw [submitBody_gate hd hl hg] at h
    cases h
  | false =>
    rw [submitBody_admit hd hl hg] at h
    cases ha : admission (readied s f) (s.addTo .fromUpper 1) with
    | ok u =>
      rw [ha] at h
      exact absurd h (startIfIdle_ne_error u _)
    | error e =>
      rw [ha] at h
      cases h
      rcases admission_error ha with rfl | rfl <;> decide

/-- A record that fails a check has one of SETUP's two codes (R182). -/
theorem validate_some {overhead : Nat} {c : CfgRegs} {code : Fatal} (h : validate overhead c = some code) :
    code = .cfgHalfDuplex ∨ code = .cfgInvalid := by
  cases hd : c.duplexMode with
  | false => exact .inl (Option.some.inj (h.symm.trans (validate_halfDuplex hd)))
  | true =>
    rw [validate_fullDuplex hd] at h
    split at h <;> cases h
    exact .inr rfl

theorem setupBody_error_code_le {s : State} {code : Fatal} {info : FaultInfo}
    (h : setupBody s = .error (code, info)) : code.code.toNat ≤ 6 := by
  cases hv : validate s.overheadBytes s.cur.record with
  | none =>
    rw [setupBody_legal hv] at h
    cases h
  | some c =>
    rw [setupBody_illegal hv] at h
    cases h
    rcases validate_some hv with rfl | rfl <;> decide

/-- A timer's rule raises nothing in its own protocol state with its frame staged (R126, R128, R130). -/
theorem bodyOf_timer_ne_error {T : Timer} {s : State} (hx : s.txState = T.runsIn) (hs : T = .txEnd → s.slot ≠ none)
    (e : Raised) : bodyOf T.event s ≠ .error e := by
  by_cases hT : T = .txEnd
  · obtain ⟨f, hf⟩ := Option.ne_none_iff_exists'.1 (hs hT)
    subst hT
    have hbody : bodyOf Timer.txEnd.event s = .ok (onTransmissionEnd f (s.disarm .txEnd)) := txEndBody_frame hx hf
    rw [hbody]
    exact nofun
  · rw [bodyOf_waitEnd hT hx]
    exact beginSendFrames_ne_error _ e

/-! ### What an event in hand raises -/

/-- A timer event that is accepted is the firing of a timer that is due (R87, R210, R213). -/
theorem due_of_accepted {T : Timer} {s : State} (h : ¬ RefusedEvent T.event s) : Due T s := by
  have hgenuine : ¬ (s.phase ≠ .run ∨ s.cur.stamp < s.now ∨ s.cur.source = .environment ∨
      s.timerAt T ≠ some s.cur.stamp) := by
    cases T <;> exact h
  simp only [not_or, ne_eq, not_not, not_lt] at hgenuine
  obtain ⟨hrun, hnow, hsrc, hT⟩ := hgenuine
  refine ⟨hrun, ?_, hT, hnow⟩
  cases hs : s.cur.source with
  | timer => rfl
  | environment => exact absurd hs hsrc

/-- Within the invariant a timer that is due raises nothing: it is armed, so the protocol state is its own, and a frame
is in flight if it is the transmission-end timer (R44 items 1 and 2). -/
theorem Due.bodyOf_ne_error {T : Timer} {s : State} (h : Due T s) (hinv : Inv s) (e : Raised) :
    bodyOf T.event s.arrive ≠ .error e := by
  obtain ⟨hrun, -, hT, -⟩ := h
  have hx : s.txState = T.runsIn := ((hinv hrun).armed_iff T).2 (by simp [hT])
  exact bodyOf_timer_ne_error (s := s.arrive) hx (fun he => (hinv hrun).inFlight (hx.trans (congrArg Timer.runsIn he))) e

/-- Within the invariant an accepted event raises a code of at most 6 (R202). -/
theorem bodyOf_error_code_le {i : Instr} {s : State} {code : Fatal} {info : FaultInfo} (hinv : Inv s)
    (hacc : ¬ RefusedEvent i s) (h : bodyOf i s.arrive = .error (code, info)) : code.code.toNat ≤ 6 := by
  cases i
  case submitData | submitPause => exact submitBody_error_code_le h
  case setup => exact setupBody_error_code_le h
  case txEnd => exact absurd h ((due_of_accepted (T := .txEnd) hacc).bodyOf_ne_error hinv _)
  case ifgEnd => exact absurd h ((due_of_accepted (T := .ifgEnd) hacc).bodyOf_ne_error hinv _)
  case pauseEnd => exact absurd h ((due_of_accepted (T := .pauseEnd) hacc).bodyOf_ne_error hinv _)
  case setAdmin d => exact absurd h (setAdminBody_ne_error d _ _)
  case submitFiller | rxData | rxPause | rxFiller | shutdown | reset => cases h

/-! ### The halt -/

/-- No rule's body halts the block by itself. -/
theorem bodyOf_halted {i : Instr} {s t : State} (h : bodyOf i s = .ok t) (ht : t.phase = .halted) :
    s.phase = .halted := by
  have hphase := (bodyOf_phase h).symm.trans ht
  cases i
  case setup | reset | shutdown => cases hphase
  all_goals exact hphase

/-- An event that halts the block is accepted, and its rule raised the error that the halt records (R205). -/
theorem exec_halts {i : Instr} {s t : State} (he : exec i s = .next t) (hs : s.phase ≠ .halted)
    (ht : t.phase = .halted) :
    ∃ code info, ¬ RefusedEvent i s ∧ bodyOf i s.arrive = .error (code, info) ∧ t = s.halt code info := by
  rcases exec_cases i s with ⟨-, e⟩ | ⟨v, -, hb, e⟩ | ⟨code, info, hacc, hb, e⟩ <;> rw [e] at he <;> cases he
  · exact absurd ht hs
  · exact absurd (bodyOf_halted hb ht) hs
  · exact ⟨code, info, hacc, hb, rfl⟩

/-- A step that halts the block handles an event. -/
theorem step_halts {s t : State} (h : step s = .next t) (hs : s.phase ≠ .halted) (ht : t.phase = .halted) :
    ∃ i u, InHand s u ∧ exec i u = .next t := by
  rcases step_cases s with ⟨-, e⟩ | ⟨a, rest, x, y, -, hdue, ⟨i, -, e⟩ | ⟨w, -, e⟩⟩ |
    ⟨T, te, x, y, -, -, hleast, -, e⟩ <;> rw [e] at h
  · cases h
    exact absurd ht hs
  · exact ⟨i, _, ⟨rfl, hdue⟩, h⟩
  · cases h
    exact absurd ht hs
  · exact ⟨T.event, _, ⟨rfl, fun _ => hleast⟩, h⟩

/-- Settles O52: the halt records what the rule of the event in hand raised within the invariant. -/
theorem strayTimerFatalsAreUnreachable : Obligations.StrayTimerFatalsAreUnreachable := by
  intro s t hinv hst hs ht
  obtain ⟨i, u, hand, he⟩ := step_halts hst hs ht
  obtain ⟨code, info, hacc, hb, rfl⟩ := exec_halts he (hand.phase ▸ hs) ht
  exact ⟨code, info, rfl, bodyOf_error_code_le (hand.inv hinv) hacc hb⟩

/-- Settles O18: the state of the halt is the record R205 lists. -/
theorem haltIsPrecise : Obligations.HaltIsPrecise := by
  intro i s t he hs ht
  obtain ⟨code, info, -, -, rfl⟩ := exec_halts he hs ht
  exact ⟨code, info, rfl⟩

end Sys2Proof.Machine
end

section
/-! ## Refusals, time and phases of one event (R46, R204, R205, R213, R220) -/

namespace Sys2Proof.Machine

/-- Settles O12: the law of refused events, in the statement's words. -/
theorem refusedEventsOnlySetTheMark : Obligations.RefusedEventsOnlySetTheMark := fun _ _ h => exec_refused h

/-- Settles O13: time moves before the rule runs, and neither a rule nor a halt writes it otherwise. -/
theorem acceptedEventsAdvanceTime : Obligations.AcceptedEventsAdvanceTime := by
  intro i s t hacc he
  have hnow := stamp_of_accepted hacc
  rcases exec_cases i s with ⟨href, -⟩ | ⟨v, -, hb, e⟩ | ⟨code, info, -, -, e⟩
  · exact absurd href hacc
  · rw [e] at he
    cases he
    have hext := bodyOf_extends hb
    exact ⟨hext.now, hnow.trans_eq hext.now.symm, hext.refused⟩
  · rw [e] at he
    cases he
    exact ⟨rfl, hnow, rfl⟩

/-- Settles O17: a rule leaves the phase `phaseAfter` names, and a halt comes from SETUP in UNINIT or from RUN, since
RESET raises nothing. -/
theorem phasesMoveOnlyAsTheTableSays : Obligations.PhasesMoveOnlyAsTheTableSays := by
  intro i s t he hne
  rcases exec_cases i s with ⟨-, e⟩ | ⟨v, hacc, hb, e⟩ | ⟨code, info, hacc, hb, e⟩ <;> rw [e] at he <;> cases he
  · exact absurd rfl hne
  · have hphase := bodyOf_phase hb
    cases i
    case setup => exact .inr (.inl ⟨rfl, phase_of_accepted_setup hacc, .inl hphase⟩)
    case reset => exact .inl ⟨rfl, hphase⟩
    case shutdown => exact .inr (.inr (.inl ⟨rfl, phase_of_accepted hacc nofun nofun, hphase⟩))
    all_goals exact absurd hphase hne
  · by_cases hsetup : i = .setup
    · exact .inr (.inl ⟨hsetup, phase_of_accepted_setup (hsetup ▸ hacc), .inr rfl⟩)
    · have hreset : i ≠ .reset := by
        rintro rfl
        cases hb
      exact .inr (.inr (.inr ⟨phase_of_accepted hacc hsetup hreset, rfl⟩))

/-- Refusal, the rule's state and the halt are all next states (R204, R205). -/
theorem exec_total (i : Instr) (s : State) : ∃ t, exec i s = .next t := by
  rcases exec_cases i s with ⟨-, e⟩ | ⟨t, -, -, e⟩ | ⟨code, info, -, -, e⟩
  · exact ⟨_, e⟩
  · exact ⟨t, e⟩
  · exact ⟨_, e⟩

/-- Settles O15: a step waits, refuses a word, or is the handling of one event. -/
theorem everyEventHasANextState : Obligations.EveryEventHasANextState := by
  refine ⟨exec_total, fun s => ?_⟩
  rcases step_cases s with ⟨-, e⟩ | ⟨a, rest, x, y, -, -, ⟨i, -, e⟩ | ⟨w, -, e⟩⟩ | ⟨T, te, x, y, -, -, -, -, e⟩ <;> rw [e]
  · exact ⟨s, rfl⟩
  · exact exec_total i _
  · exact ⟨_, rfl⟩
  · exact exec_total T.event _

end Sys2Proof.Machine
end

section
/-! ## The order of the events taken (R211, R212) -/

namespace Sys2Proof.Machine

/-! ### Taking an enabled candidate -/

theorem take_timer {s : State} {T : Timer} {te : Time} (h : s.timerAt T = some te) :
    take s (.timer T) = (.event T.event, firingAt s te) := by
  simp only [take, h, firingAt]

/-- In RUN an enabled candidate is no later than any armed timer (R211). -/
theorem enabled_le_timerAt {s : State} {c : Time × Choice} {T : Timer} {te : Time} (h : c ∈ enabled s)
    (hrun : s.phase = .run) (hT : s.timerAt T = some te) : c.1 ≤ te :=
  (mem_enabled.1 h).2 (te, .timer T) (mem_candidates.2 (.inr ⟨hrun, T, hT, rfl⟩))

/-- An enabled candidate, taken from a state with the same offer and timers, is in hand with its own stamp. -/
theorem take_enabled {s u : State} {t : Time} {c : Choice} (h : (t, c) ∈ enabled s) (hin : u.inbox = s.inbox)
    (hT : ∀ T, u.timerAt T = s.timerAt T) : (take u c).1 ≠ .nothing ∧ (take u c).2.cur.stamp = t := by
  cases c with
  | arrival =>
    obtain ⟨a, rest, hi, rfl, -⟩ := enabled_arrival h
    cases hd : decode a.word with
    | ok i =>
      rw [take_arrival_of_decode_ok (hin.trans hi) hd]
      exact ⟨nofun, rfl⟩
    | error e =>
      rw [take_arrival_of_decode_error (hin.trans hi) hd]
      exact ⟨nofun, rfl⟩
  | timer T =>
    obtain ⟨-, ht, -, -⟩ := enabled_timer h
    rw [take_timer ((hT T).trans ht)]
    exact ⟨nofun, rfl⟩

theorem drawTie_inbox (s : State) : (drawTie s).2.inbox = s.inbox := by rw [drawTie_snd]

theorem drawTie_timerAt (s : State) (T : Timer) : (drawTie s).2.timerAt T = s.timerAt T := by
  rw [drawTie_snd]
  exact timerAt_congr rfl rfl rfl T

/-- Settles O10: an armed timer is a candidate, so there is an enabled one, and the one taken is no later. -/
theorem noEventPassesAnArmedTimer : Obligations.NoEventPassesAnArmedTimer := by
  intro s u x T te hrun hT hf
  rw [fetch] at hf
  cases hc : choose s with
  | none => exact absurd hT (by simp [(enabled_nil (choose_none hc)).2 hrun T])
  | some p =>
    obtain ⟨c, v⟩ := p
    obtain ⟨⟨t, he⟩, hv⟩ := choose_some hc
    obtain ⟨hin, htimers⟩ : v.inbox = s.inbox ∧ ∀ T, v.timerAt T = s.timerAt T := by
      rcases hv with rfl | rfl
      exacts [⟨rfl, fun _ => rfl⟩, ⟨drawTie_inbox s, drawTie_timerAt s⟩]
    have htaken := take_enabled he hin htimers
    simp only [hc] at hf
    rw [hf] at htaken
    obtain ⟨hx, hstamp⟩ := htaken
    exact ⟨hx, hstamp.trans_le (enabled_le_timerAt he hrun hT)⟩

/-! ### A tie of the first offered event and one timer -/

/-- Two candidates with one stamp are both enabled, and the tie draws one of them (R212). -/
theorem choose_pair {s : State} {c d : Time × Choice} (h : enabled s = [c, d]) :
    choose s = some (if (drawTie s).1 % 2 = 0 then c.2 else d.2, (drawTie s).2) := by
  unfold choose
  rw [h]
  rcases Nat.mod_two_eq_zero_or_one (drawTie s).1 with hk | hk <;> simp [hk]

/-- The only armed timer is the only candidate of its kind. -/
theorem armedTimers_of_only {s : State} {T : Timer} {te : Time} (hrun : s.phase = .run) (hT : s.timerAt T = some te)
    (hother : ∀ T', T' ≠ T → s.timerAt T' = none) : armedTimers s = [(te, .timer T)] := by
  have hself : armedTimer s T = [(te, .timer T)] := by simp [armedTimer, hT]
  have hnone : ∀ T', T' ≠ T → armedTimer s T' = [] := fun T' hne => by simp [armedTimer, hother T' hne]
  rw [armedTimers, if_pos hrun]
  cases T <;> simp [hself, hnone]

/-- The first offered event, which spells `i`, and the only armed timer `T` have one stamp. -/
structure Tied (i : Instr) (T : Timer) (a : Arrival) (rest : List Arrival) (s : State) : Prop where
  phase : s.phase = .run
  inbox : s.inbox = a :: rest
  word : decode a.word = .ok i
  armed : s.timerAt T = some a.stamp
  others : ∀ T', T' ≠ T → s.timerAt T' = none

namespace Tied

variable {i : Instr} {T : Timer} {a : Arrival} {rest : List Arrival} {s : State} (h : Tied i T a rest s)
include h

theorem enabled_eq : enabled s = [(a.stamp, .arrival), (a.stamp, .timer T)] := by
  have hoffered : offered s = [(a.stamp, .arrival)] := by simp [offered, h.inbox]
  rw [enabled, hoffered, armedTimers_of_only h.phase h.armed h.others]
  simp [earliest]

/-- The draw alone decides which of the two is taken. -/
theorem fetch_eq :
    fetch s = if (drawTie s).1 % 2 = 0 then (.event i, handling (drawTie s).2 a rest)
      else (.event T.event, firingAt (drawTie s).2 a.stamp) := by
  have harrival := take_arrival_of_decode_ok ((drawTie_inbox s).trans h.inbox) h.word
  have htimer := take_timer ((drawTie_timerAt s T).trans h.armed)
  rw [fetch, choose_pair h.enabled_eq]
  by_cases hk : (drawTie s).1 % 2 = 0
  · simp only [hk, if_true, harrival]
  · simp only [hk, if_false, htimer]

theorem step_eq :
    step s = if (drawTie s).1 % 2 = 0 then exec i (handling (drawTie s).2 a rest)
      else exec T.event (firingAt (drawTie s).2 a.stamp) := by
  rw [step, h.fetch_eq]
  by_cases hk : (drawTie s).1 % 2 = 0
  · simp only [hk, if_true]
  · simp only [hk, if_false]

end Tied

theorem drawTie_listed {s : State} {k : Nat} {r : List Nat} (h : s.ties = k :: r) :
    drawTie s = (k, { s with ties := r }) := by
  simp only [drawTie, h]

/-- Settles O11: a listed 0 takes the event, a listed 1 the timer, and any draw takes one of the two. -/
theorem equalStampsFallEitherWay : Obligations.EqualStampsFallEitherWay := by
  intro s a rest i T hrun hin hd hT hother
  have htied : Tied i T a rest s := ⟨hrun, hin, hd, hT, hother⟩
  refine ⟨fun r hr => ?_, fun r hr => ?_, (drawTie s).2, ?_, ?_⟩
  · rw [htied.step_eq, drawTie_listed hr]
    rfl
  · rw [htied.step_eq, drawTie_listed hr]
    rfl
  · rw [htied.step_eq]
    split
    exacts [.inl rfl, .inr rfl]
  · rw [drawTie_snd]

end Sys2Proof.Machine
end

section
/-! ## Power-on and the launch (R240, R245) -/

namespace Sys2Proof.Machine

/-- Settles O20: the fields read off the reset state, its empty trace, and its phase, which is not RUN. -/
theorem powerOnValues : Obligations.PowerOnValues := by
  have hon : PowerOn State.reset := by constructor <;> rfl
  exact ⟨hon, ⟨hon.refused, by simp [hon.out]⟩, nofun⟩

/-- A legal SETUP at power-on ends in what its rule reaches (R180, R245). -/
theorem PowerOn.setupBody_eq {s0 s : State} (hon : PowerOn s0) (ht : 0 ≤ s0.cur.stamp)
    (hl : Legal s0.overheadBytes s0.cur.record) (he : exec .setup s0 = .next s) : setupBody s0.arrive = .ok s := by
  have hb := setupBody_legal (s := s0.arrive) hl
  rw [exec_setup hon.phase (hon.now.trans_le ht), hb, conclude_ok] at he
  cases he
  exact hb

/-- Settles O23: the state SETUP loads (O21) on top of the power-on values, and the invariant its rule ends in. -/
theorem readyStateIsQuietAndEmpty : Obligations.ReadyStateIsQuietAndEmpty := by
  rintro c t0 conn alloc s ⟨s0, hon, ht, hl, rfl, rfl, rfl, rfl, he⟩
  have hinv : RunInv s := setupBody_runInv (hon.setupBody_eq ht hl he)
  rw [legalSetupStartsTheEngine s0 hon.phase (hon.now.trans_le ht) hl] at he
  cases he
  refine ⟨⟨hon.refused, ?_⟩, ⟨rfl, rfl, rfl, rfl, rfl, rfl, rfl⟩, rfl, rfl, rfl, rfl, rfl, decide_eq_true_iff, hinv⟩
  simp only [hon.out]
  split <;> simp [OutEvent.isHalt]

end Sys2Proof.Machine
end

section
/-!
## Every run ends (R255, R256)

In RUN each held frame costs at most two timer events, the end of its transmission and the end of the gap or pause after
it, and a gap or pause under way costs one more. `stepsLeft` counts these and pays four steps for each offered event,
which adds at most three to the timer events; every step that takes something makes it smaller.
-/

namespace Sys2Proof.Machine

/-! ### The bound on what is left to do -/

/-- The gap or pause under way, whose timer has yet to fire (R34). -/
def TxState.waits : TxState → Nat
  | .idle => 0
  | .transmitting => 0
  | .waitIfg => 1
  | .paused => 1

theorem TxState.waits_le (x : TxState) : x.waits ≤ 1 := by cases x <;> decide

/-- The timer events that the frames held and the wait under way can still cause; outside RUN no timer fires (R220). -/
def timerWork (s : State) : Nat := if s.phase = .run then 2 * (heldFrames s).length + s.txState.waits else 0

/-- A bound on the steps until the run ends. -/
def stepsLeft (s : State) : Nat := 4 * s.inbox.length + timerWork s

theorem timerWork_run {s : State} (h : s.phase = .run) :
    timerWork s = 2 * (heldFrames s).length + s.txState.waits := if_pos h

theorem timerWork_outside_run {s : State} (h : s.phase ≠ .run) : timerWork s = 0 := if_neg h

theorem timerWork_le (s : State) : timerWork s ≤ 2 * (heldFrames s).length + 1 := by
  by_cases h : s.phase = .run
  · rw [timerWork_run h]
    exact Nat.add_le_add_left s.txState.waits_le _
  · rw [timerWork_outside_run h]
    exact Nat.zero_le _

/-! ### An offered event -/

/-- No event touches what else is offered. -/
theorem exec_inbox {i : Instr} {s t : State} (h : exec i s = .next t) : t.inbox = s.inbox := by
  rcases exec_cases i s with ⟨-, e⟩ | ⟨v, -, hb, e⟩ | ⟨code, info, -, -, e⟩ <;> rw [e] at h <;> cases h
  · rfl
  · exact (bodyOf_extends hb).inbox
  · rfl

theorem TakesFromFront.length_le {s t : State} (h : TakesFromFront s t) :
    (heldFrames t).length ≤ (heldFrames s).length := by
  obtain ⟨k, hk⟩ := h
  rw [hk, List.length_drop]
  exact Nat.sub_le ..

theorem InOrder.length_le {s t : State} (h : InOrder s t) : (heldFrames t).length ≤ (heldFrames s).length + 1 := by
  rcases h with h | ⟨new, hnew, hlen⟩
  · exact h.length_le.trans (Nat.le_succ _)
  · rw [hnew, List.length_append]
    exact Nat.add_le_add_left hlen _

/-- SETUP starts with nothing held (R180). -/
theorem setupBody_heldFrames {s t : State} (h : setupBody s = .ok t) : heldFrames t = [] := by
  obtain ⟨-, rfl⟩ := setupBody_ok h
  split <;> rfl

/-- A step that enters RUN is a SETUP, so it enters with nothing held (R220). -/
theorem step_enters_run {s t : State} (h : step s = .next t) (hs : s.phase ≠ .run) (ht : t.phase = .run) :
    heldFrames t = [] := by
  cases step_outcome h with
  | waits => exact absurd ht hs
  | refused hand => exact absurd (hand.phase.symm.trans ht) hs
  | halted => cases ht
  | @accepted u _ i hand acc body =>
    by_cases hi : i = .setup
    · subst hi
      exact setupBody_heldFrames body
    · have hreset : i ≠ .reset := by
        rintro rfl
        exact absurd ((bodyOf_phase body).symm.trans ht) nofun
      exact absurd (hand.phase.symm.trans (phase_of_accepted acc hi hreset)) hs

/-- A step adds at most one frame and one wait. -/
theorem step_timerWork_le {s t : State} (hinv : Inv s) (h : step s = .next t) : timerWork t ≤ timerWork s + 3 := by
  by_cases ht : t.phase = .run
  · have hle := timerWork_le t
    by_cases hs : s.phase = .run
    · have hlen := (step_inOrder hinv h hs ht).length_le
      rw [timerWork_run hs]
      omega
    · rw [step_enters_run h hs ht] at hle
      exact hle.trans (Nat.le_add_left_of_le (by decide))
  · rw [timerWork_outside_run ht]
    exact Nat.zero_le _

/-! ### A timer's event -/

/-- The frame sent is given up; the slot takes the head of what waits (R110, R127). -/
theorem onTransmissionEnd_heldFrames (f : Frame) (s : State) : heldFrames (onTransmissionEnd f s) = s.queue := by
  rw [onTransmissionEnd, pauseOrGap_heldFrames, refill_heldFrames, countSent_eq]
  rfl

/-- The end of a transmission trades the frame sent for one wait (R127). -/
theorem txEndBody_timerWork_lt {s t : State} (hs : s.phase = .run) (ht : t.phase = .run)
    (hb : txEndBody (s.disarm .txEnd) = .ok t) : timerWork t < timerWork s := by
  obtain ⟨f, -, hf, rfl⟩ := txEndBody_ok hb
  rw [State.disarm_slot] at hf
  have hwaits := (onTransmissionEnd f (s.disarm .txEnd)).txState.waits_le
  rw [timerWork_run hs, timerWork_run ht, onTransmissionEnd_heldFrames, State.disarm_queue, heldFrames, hf]
  simp only [Option.toList_some, List.length_append, List.length_singleton]
  omega

/-- The end of a gap or of a pause ends that wait and adds no frame (R121, R128, R130). -/
theorem waitEnd_timerWork_lt {s t : State} {T : Timer} (hT : T ≠ .txEnd) (hs : s.phase = .run) (ht : t.phase = .run)
    (hx : s.txState = T.runsIn) (hb : beginSendFrames (s.disarm T) = .ok t) : timerWork t < timerWork s := by
  have hsent : (s.disarm T).txState ≠ .transmitting := by
    rw [State.disarm_txState, hx]
    exact fun hc => hT ((Timer.runsIn_inj (T' := .txEnd)).1 hc)
  have hwait : s.txState.waits = 1 := by
    rw [hx]
    cases T with
    | txEnd => exact absurd rfl hT
    | ifgEnd | pauseEnd => rfl
  have hnone : t.txState.waits = 0 := by rcases beginSendFrames_txState hsent hb with h | h <;> rw [h] <;> rfl
  have hlen := (waitEnd_takesFromFront hb).length_le
  rw [timerWork_run hs, timerWork_run ht]
  omega

/-- Every timer's rule, in the timer's own protocol state, leaves less for the timers to do. -/
theorem bodyOf_timer_timerWork_lt {s t : State} {T : Timer} (hs : s.phase = .run) (hx : s.txState = T.runsIn)
    (hb : bodyOf T.event s = .ok t) : timerWork t < timerWork s := by
  have ht : t.phase = .run := (bodyOf_phase hb).trans (by cases T <;> exact hs)
  by_cases hT : T = .txEnd
  · subst hT
    exact txEndBody_timerWork_lt hs ht hb
  · rw [bodyOf_waitEnd hT hx] at hb
    exact waitEnd_timerWork_lt hT hs ht hx hb

/-- Within the invariant the firing of a timer that is due raises nothing and leaves less for the timers to do. -/
theorem Due.timerWork_lt {T : Timer} {s t : State} (h : Due T s) (hinv : Inv s) (he : exec T.event s = .next t) :
    timerWork t < timerWork s := by
  rcases exec_cases T.event s with ⟨href, -⟩ | ⟨v, -, hb, e⟩ | ⟨code, info, -, hb, -⟩
  · exact absurd href h.accepted
  · rw [e] at he
    cases he
    obtain ⟨hrun, -, hT, -⟩ := h
    have hx : s.txState = T.runsIn := ((hinv hrun).armed_iff T).2 (by simp [hT])
    exact bodyOf_timer_timerWork_lt (s := s.arrive) hrun hx hb
  · exact absurd hb (h.bodyOf_ne_error hinv _)

/-- Within the invariant the firing in hand of an armed timer is due: its expiry is not in the past (R44 item 8). -/
theorem InHand.timer_due {s u : State} {T : Timer} {te : Time} (hand : InHand s u) (hinv : Inv s)
    (hrun : s.phase = .run) (hT : s.timerAt T = some te) (hsrc : u.cur.source = .timer) (hstamp : u.cur.stamp = te) :
    Due T u := by
  subst hstamp
  exact ⟨hand.phase.trans hrun, hsrc, (hand.timerAt T).trans hT, hand.now.trans_le ((hinv hrun).future T _ hT)⟩

/-! ### The run -/

/-- A step takes the first offered event, or fires a timer and leaves what is offered; if it does neither, the run has
ended (R211, R256). -/
theorem step_progress {s t : State} (hinv : Inv s) (h : step s = .next t) :
    Ended s ∨ s.inbox.length = t.inbox.length + 1 ∨ (t.inbox = s.inbox ∧ timerWork t < timerWork s) := by
  rcases step_cases s with ⟨hend, -⟩ | ⟨a, rest, x, y, hi, -, ⟨i, -, e⟩ | ⟨w, -, e⟩⟩ |
    ⟨T, te, x, y, hrun, hT, hleast, -, e⟩
  · exact .inl hend
  · rw [e] at h
    exact .inr (.inl (by rw [hi, exec_inbox h]; rfl))
  · rw [e] at h
    cases h
    exact .inr (.inl (by rw [hi]; rfl))
  · rw [e] at h
    have hand : InHand s { s with cur := { s.cur with source := .timer, stamp := te }, ties := x, tieDraws := y } :=
      ⟨rfl, fun _ => hleast⟩
    have hdue := hand.timer_due hinv hrun hT rfl rfl
    exact .inr (.inr ⟨(exec_inbox h).trans rfl, hdue.timerWork_lt (hand.inv hinv) h⟩)

/-- Until the run has ended every step leaves fewer to come. -/
theorem step_stepsLeft_lt {s t : State} (hinv : Inv s) (h : step s = .next t) (hs : ¬ Ended s) :
    stepsLeft t < stepsLeft s := by
  unfold stepsLeft
  rcases step_progress hinv h with hend | hin | ⟨hin, hlt⟩
  · exact absurd hend hs
  · have hwork := step_timerWork_le hinv h
    omega
  · rw [hin]
    exact Nat.add_lt_add_left hlt _

theorem run_succ {s t : State} (n : Nat) (h : step s = .next t) :
    Host.Core.run Sys2Proof.core (n + 1) s = Host.Core.run Sys2Proof.core n t := by
  have hcore : Sys2Proof.core.step s = .next t := h
  simp only [Host.Core.run, hcore]

/-- Step by step `stepsLeft` falls, so a run of at most that many steps ends. -/
theorem run_ends {s : State} (hinv : Inv s) :
    ∃ n t, n ≤ stepsLeft s ∧ Host.Core.run Sys2Proof.core n s = .next t ∧ Ended t := by
  by_cases hs : Ended s
  · exact ⟨0, s, Nat.zero_le _, rfl, hs⟩
  · obtain ⟨t, hst⟩ := everyEventHasANextState.2 s
    have hlt := step_stepsLeft_lt hinv hst hs
    obtain ⟨n, v, hn, hrun, hv⟩ := run_ends (stepKeepsTheInvariant s t hinv hst)
    exact ⟨n + 1, v, Nat.succ_le_of_lt (hn.trans_lt hlt), (run_succ n hst).trans hrun, hv⟩
termination_by stepsLeft s

/-- Settles O60: the bound of the statement is no less than `stepsLeft`. -/
theorem everyRunEnds : Obligations.EveryRunEnds := by
  intro s hinv
  obtain ⟨n, t, hn, hrun, hend⟩ := run_ends hinv
  have hwork := timerWork_le s
  exact ⟨n, t, hn.trans (by unfold stepsLeft; omega), hrun, hend⟩

end Sys2Proof.Machine
end
